-- ==== Sys2Proof/Word.lean ====
section
/-! DEFINITION. The word types of the C8C CHIP-8 core (00_scope.md R8, R9, R11). All values are unsigned. -/

namespace Sys2Proof

/-- 8 bits: a general register, a timer, a byte of memory (R8). -/
abbrev Byte := BitVec 8

/-- 16 bits: an opcode, the index register, a stack entry (R8). -/
abbrev Word := BitVec 16

/-- 12 bits: the program counter, an address of the 4096 bytes of memory (R8, R9). -/
abbrev Addr := BitVec 12

/-- 4 bits (R11): a register index `x` or `y`, the count `n`, a key number. -/
abbrev Nibble := BitVec 4

end Sys2Proof
end

