-- ==== Sys2Proof/Syntax.lean ====
section
/-! DEFINITION. The 35 instructions of the opcode map (30_encoding.md R85), one constructor a row, in the table's order.
Operands are the fields of R81: `nnn` 12 bits, `kk` 8 bits, `x`, `y`, `n` 4 bits. -/

namespace Sys2Proof

inductive Instr where
  /-- row 1, `0nnn`: SYS addr (R110) -/
  | sys (nnn : Addr)
  /-- row 2, `00E0`: CLS (R111) -/
  | cls
  /-- row 3, `00EE`: RET (R112) -/
  | ret
  /-- row 4, `1nnn`: JP addr (R113) -/
  | jp (nnn : Addr)
  /-- row 5, `2nnn`: CALL addr (R114) -/
  | call (nnn : Addr)
  /-- row 6, `Bnnn`: JP V0, addr (R115); its `x` is `nnn[11:8]` -/
  | jpV0 (nnn : Addr)
  /-- row 7, `3xkk`: SE Vx, kk (R130) -/
  | seImm (x : Nibble) (kk : Byte)
  /-- row 8, `4xkk`: SNE Vx, kk (R131) -/
  | sneImm (x : Nibble) (kk : Byte)
  /-- row 9, `5xy0`: SE Vx, Vy (R132) -/
  | seReg (x y : Nibble)
  /-- row 10, `9xy0`: SNE Vx, Vy (R133) -/
  | sneReg (x y : Nibble)
  /-- row 11, `6xkk`: LD Vx, kk (R140) -/
  | ldImm (x : Nibble) (kk : Byte)
  /-- row 12, `7xkk`: ADD Vx, kk (R141) -/
  | addImm (x : Nibble) (kk : Byte)
  /-- row 13, `8xy0`: LD Vx, Vy (R142) -/
  | ldReg (x y : Nibble)
  /-- row 14, `8xy1`: OR Vx, Vy (R143) -/
  | orReg (x y : Nibble)
  /-- row 15, `8xy2`: AND Vx, Vy (R144) -/
  | andReg (x y : Nibble)
  /-- row 16, `8xy3`: XOR Vx, Vy (R145) -/
  | xorReg (x y : Nibble)
  /-- row 17, `8xy4`: ADD Vx, Vy (R146) -/
  | addReg (x y : Nibble)
  /-- row 18, `8xy5`: SUB Vx, Vy (R147) -/
  | subReg (x y : Nibble)
  /-- row 19, `8xy6`: SHR Vx with an optional Vy (R148) -/
  | shr (x y : Nibble)
  /-- row 20, `8xy7`: SUBN Vx, Vy (R149) -/
  | subnReg (x y : Nibble)
  /-- row 21, `8xyE`: SHL Vx with an optional Vy (R150) -/
  | shl (x y : Nibble)
  /-- row 22, `Cxkk`: RND Vx, kk (R151) -/
  | rnd (x : Nibble) (kk : Byte)
  /-- row 23, `Annn`: LD I, addr (R170) -/
  | ldI (nnn : Addr)
  /-- row 24, `Fx1E`: ADD I, Vx (R171) -/
  | addI (x : Nibble)
  /-- row 25, `Fx55`: LD [I], Vx (R172) -/
  | stRegs (x : Nibble)
  /-- row 26, `Fx65`: LD Vx, [I] (R173) -/
  | ldRegs (x : Nibble)
  /-- row 27, `Dxyn`: DRW Vx, Vy, n (R181) -/
  | drw (x y n : Nibble)
  /-- row 28, `Ex9E`: SKP Vx (R190) -/
  | skp (x : Nibble)
  /-- row 29, `ExA1`: SKNP Vx (R191) -/
  | sknp (x : Nibble)
  /-- row 30, `Fx0A`: LD Vx, K (R192) -/
  | ldKey (x : Nibble)
  /-- row 31, `Fx07`: LD Vx, DT (R200) -/
  | ldVxDT (x : Nibble)
  /-- row 32, `Fx15`: LD DT, Vx (R201) -/
  | ldDT (x : Nibble)
  /-- row 33, `Fx18`: LD ST, Vx (R202) -/
  | ldST (x : Nibble)
  /-- row 34, `Fx29`: LD F, Vx (R210) -/
  | ldF (x : Nibble)
  /-- row 35, `Fx33`: LD B, Vx (R211) -/
  | ldB (x : Nibble)
  deriving DecidableEq, Repr

end Sys2Proof
end

