-- ==== Sys2Proof/WellFormed.lean ====
section
/-! DEFINITION. When an instruction is one that some word decodes to. The field widths stand in the types of `Instr`;
what is left is that CLS and RET take precedence over SYS (30_encoding.md R84, R85): no word decodes to SYS 0x0E0 or
SYS 0x0EE, since 0x00E0 is CLS and 0x00EE is RET. -/

namespace Sys2Proof

def Instr.wellFormed : Instr → Bool
  | .sys nnn => nnn != 0x0E0#12 && nnn != 0x0EE#12
  | .cls | .ret | .jp _ | .call _ | .jpV0 _ => true
  | .seImm _ _ | .sneImm _ _ | .seReg _ _ | .sneReg _ _ => true
  | .ldImm _ _ | .addImm _ _ | .ldReg _ _ | .orReg _ _ | .andReg _ _ | .xorReg _ _ | .addReg _ _ | .subReg _ _ => true
  | .shr _ _ | .subnReg _ _ | .shl _ _ | .rnd _ _ => true
  | .ldI _ | .addI _ | .stRegs _ | .ldRegs _ => true
  | .drw _ _ _ => true
  | .skp _ | .sknp _ | .ldKey _ => true
  | .ldVxDT _ | .ldDT _ | .ldST _ => true
  | .ldF _ | .ldB _ => true

/-- The instruction is the decoding of some word. -/
abbrev Instr.WellFormed (i : Instr) : Prop := i.wellFormed = true

end Sys2Proof
end

