-- ==== Sys2Proof/Decode.lean ====
section
/-! DEFINITION. Decoding (30_encoding.md R80 to R88) and the encoder, from the same table. Decode is total: every word is
exactly one instruction or is rejected by name (R84, R86). -/

namespace Sys2Proof

/-! The fields of an opcode (R81, R18). -/

/-- `opcode[15:12]` -/
def topNibble (op : Word) : Nibble := op.extractLsb' 12 4
/-- `x = opcode[11:8]` -/
def fieldX (op : Word) : Nibble := op.extractLsb' 8 4
/-- `y = opcode[7:4]` -/
def fieldY (op : Word) : Nibble := op.extractLsb' 4 4
/-- `n = opcode[3:0]` -/
def fieldN (op : Word) : Nibble := op.extractLsb' 0 4
/-- `kk = opcode[7:0]` -/
def fieldKK (op : Word) : Byte := op.extractLsb' 0 8
/-- `nnn = opcode[11:0]` -/
def fieldNNN (op : Word) : Addr := op.extractLsb' 0 12

/-- Why no instruction is read. The groups are those of R86's table; executing such a word raises UnknownOpcode (R222). -/
inductive Reject where
  /-- fewer than the two bytes of an instruction (R80) -/
  | truncated
  /-- `5xyn` with n != 0 -/
  | group5
  /-- `8xyn` with n in 8, 9, A, B, C, D, F -/
  | group8
  /-- `9xyn` with n != 0 -/
  | group9
  /-- `Exkk` with kk not 9E, A1 -/
  | groupE
  /-- `Fxkk` with kk not 07, 0A, 15, 18, 1E, 29, 33, 55, 65 -/
  | groupF
  deriving DecidableEq, Repr

/-- The outcome of decoding: an instruction, or UnknownOpcode with the name of the group that rejects the word. -/
inductive Decoded where
  | ins (i : Instr)
  | unknown (why : Reject)
  deriving DecidableEq, Repr

/-- `0x0`: CLS and RET take precedence over SYS (R84). -/
def decodeGroup0 (op : Word) : Decoded :=
  if op = 0x00E0#16 then .ins .cls
  else if op = 0x00EE#16 then .ins .ret
  else .ins (.sys (fieldNNN op))

/-- `0x8`: the register to register group, by `n` (R84). -/
def decodeGroup8 (x y n : Nibble) : Decoded :=
  if n = 0x0#4 then .ins (.ldReg x y)
  else if n = 0x1#4 then .ins (.orReg x y)
  else if n = 0x2#4 then .ins (.andReg x y)
  else if n = 0x3#4 then .ins (.xorReg x y)
  else if n = 0x4#4 then .ins (.addReg x y)
  else if n = 0x5#4 then .ins (.subReg x y)
  else if n = 0x6#4 then .ins (.shr x y)
  else if n = 0x7#4 then .ins (.subnReg x y)
  else if n = 0xE#4 then .ins (.shl x y)
  else .unknown .group8

/-- `0xE`: the key skips, by `kk` (R84). -/
def decodeGroupE (x : Nibble) (kk : Byte) : Decoded :=
  if kk = 0x9E#8 then .ins (.skp x)
  else if kk = 0xA1#8 then .ins (.sknp x)
  else .unknown .groupE

/-- `0xF`: by `kk` (R84). -/
def decodeGroupF (x : Nibble) (kk : Byte) : Decoded :=
  if kk = 0x07#8 then .ins (.ldVxDT x)
  else if kk = 0x0A#8 then .ins (.ldKey x)
  else if kk = 0x15#8 then .ins (.ldDT x)
  else if kk = 0x18#8 then .ins (.ldST x)
  else if kk = 0x1E#8 then .ins (.addI x)
  else if kk = 0x29#8 then .ins (.ldF x)
  else if kk = 0x33#8 then .ins (.ldB x)
  else if kk = 0x55#8 then .ins (.stRegs x)
  else if kk = 0x65#8 then .ins (.ldRegs x)
  else .unknown .groupF

/-- `decode(op)` of R84: by the top nibble, then by sub-fields. Reads only the opcode. -/
def decodeWord (op : Word) : Decoded :=
  let t := topNibble op
  let x := fieldX op
  let y := fieldY op
  let n := fieldN op
  let kk := fieldKK op
  let nnn := fieldNNN op
  if t = 0x0#4 then decodeGroup0 op
  else if t = 0x1#4 then .ins (.jp nnn)
  else if t = 0x2#4 then .ins (.call nnn)
  else if t = 0x3#4 then .ins (.seImm x kk)
  else if t = 0x4#4 then .ins (.sneImm x kk)
  else if t = 0x5#4 then (if n = 0x0#4 then .ins (.seReg x y) else .unknown .group5)
  else if t = 0x6#4 then .ins (.ldImm x kk)
  else if t = 0x7#4 then .ins (.addImm x kk)
  else if t = 0x8#4 then decodeGroup8 x y n
  else if t = 0x9#4 then (if n = 0x0#4 then .ins (.sneReg x y) else .unknown .group9)
  else if t = 0xA#4 then .ins (.ldI nnn)
  else if t = 0xB#4 then .ins (.jpV0 nnn)
  else if t = 0xC#4 then .ins (.rnd x kk)
  else if t = 0xD#4 then .ins (.drw x y n)
  else if t = 0xE#4 then decodeGroupE x kk
  else decodeGroupF x kk

/-- The word of two consecutive bytes, most-significant byte first (R80; 20_memory.md R53). -/
def wordOfBytes (hi lo : Byte) : Word := hi ++ lo

/-- Decoding a list of bytes: the instruction of the first two, and the bytes after it (R80: one length, two bytes). -/
def decodeBytes : List Byte → Decoded × List Byte
  | hi :: lo :: rest => (decodeWord (wordOfBytes hi lo), rest)
  | bytes => (.unknown .truncated, bytes)

/-! The encoder. The formats of R82: a top nibble and an address; a top nibble, a register and a byte; a top nibble, two
registers and a nibble. -/

/-- `Tnnn` -/
def wordFA (t : Nibble) (nnn : Addr) : Word := t ++ nnn
/-- `Txkk`, and `Ex` or `Fx` with a fixed low byte -/
def wordFXK (t x : Nibble) (kk : Byte) : Word := t ++ x ++ kk
/-- `Txyn`, and `Txy` with a fixed low nibble -/
def wordFXYN (t x y n : Nibble) : Word := t ++ x ++ y ++ n

/-- The word of an instruction (R82, R85). -/
def encode : Instr → Word
  | .sys nnn => wordFA 0x0#4 nnn
  | .cls => 0x00E0#16
  | .ret => 0x00EE#16
  | .jp nnn => wordFA 0x1#4 nnn
  | .call nnn => wordFA 0x2#4 nnn
  | .jpV0 nnn => wordFA 0xB#4 nnn
  | .seImm x kk => wordFXK 0x3#4 x kk
  | .sneImm x kk => wordFXK 0x4#4 x kk
  | .seReg x y => wordFXYN 0x5#4 x y 0x0#4
  | .sneReg x y => wordFXYN 0x9#4 x y 0x0#4
  | .ldImm x kk => wordFXK 0x6#4 x kk
  | .addImm x kk => wordFXK 0x7#4 x kk
  | .ldReg x y => wordFXYN 0x8#4 x y 0x0#4
  | .orReg x y => wordFXYN 0x8#4 x y 0x1#4
  | .andReg x y => wordFXYN 0x8#4 x y 0x2#4
  | .xorReg x y => wordFXYN 0x8#4 x y 0x3#4
  | .addReg x y => wordFXYN 0x8#4 x y 0x4#4
  | .subReg x y => wordFXYN 0x8#4 x y 0x5#4
  | .shr x y => wordFXYN 0x8#4 x y 0x6#4
  | .subnReg x y => wordFXYN 0x8#4 x y 0x7#4
  | .shl x y => wordFXYN 0x8#4 x y 0xE#4
  | .rnd x kk => wordFXK 0xC#4 x kk
  | .ldI nnn => wordFA 0xA#4 nnn
  | .addI x => wordFXK 0xF#4 x 0x1E#8
  | .stRegs x => wordFXK 0xF#4 x 0x55#8
  | .ldRegs x => wordFXK 0xF#4 x 0x65#8
  | .drw x y n => wordFXYN 0xD#4 x y n
  | .skp x => wordFXK 0xE#4 x 0x9E#8
  | .sknp x => wordFXK 0xE#4 x 0xA1#8
  | .ldKey x => wordFXK 0xF#4 x 0x0A#8
  | .ldVxDT x => wordFXK 0xF#4 x 0x07#8
  | .ldDT x => wordFXK 0xF#4 x 0x15#8
  | .ldST x => wordFXK 0xF#4 x 0x18#8
  | .ldF x => wordFXK 0xF#4 x 0x29#8
  | .ldB x => wordFXK 0xF#4 x 0x33#8

/-- The two bytes of an instruction, in address order (R80). -/
def encodeBytes (i : Instr) : List Byte :=
  [(encode i).extractLsb' 8 8, (encode i).extractLsb' 0 8]

/-- A row of the opcode map: a word matches it when `(op & mask) == match` (R85). -/
structure Row where
  mask : Word
  value : Word
  deriving DecidableEq, Repr

def Row.matches (r : Row) (op : Word) : Bool := op &&& r.mask == r.value

/-- The row of R85 that an instruction stands in: its mask and its match. -/
def Instr.row : Instr → Row
  | .sys _ => ⟨0xF000, 0x0000⟩
  | .cls => ⟨0xFFFF, 0x00E0⟩
  | .ret => ⟨0xFFFF, 0x00EE⟩
  | .jp _ => ⟨0xF000, 0x1000⟩
  | .call _ => ⟨0xF000, 0x2000⟩
  | .jpV0 _ => ⟨0xF000, 0xB000⟩
  | .seImm _ _ => ⟨0xF000, 0x3000⟩
  | .sneImm _ _ => ⟨0xF000, 0x4000⟩
  | .seReg _ _ => ⟨0xF00F, 0x5000⟩
  | .sneReg _ _ => ⟨0xF00F, 0x9000⟩
  | .ldImm _ _ => ⟨0xF000, 0x6000⟩
  | .addImm _ _ => ⟨0xF000, 0x7000⟩
  | .ldReg _ _ => ⟨0xF00F, 0x8000⟩
  | .orReg _ _ => ⟨0xF00F, 0x8001⟩
  | .andReg _ _ => ⟨0xF00F, 0x8002⟩
  | .xorReg _ _ => ⟨0xF00F, 0x8003⟩
  | .addReg _ _ => ⟨0xF00F, 0x8004⟩
  | .subReg _ _ => ⟨0xF00F, 0x8005⟩
  | .shr _ _ => ⟨0xF00F, 0x8006⟩
  | .subnReg _ _ => ⟨0xF00F, 0x8007⟩
  | .shl _ _ => ⟨0xF00F, 0x800E⟩
  | .rnd _ _ => ⟨0xF000, 0xC000⟩
  | .ldI _ => ⟨0xF000, 0xA000⟩
  | .addI _ => ⟨0xF0FF, 0xF01E⟩
  | .stRegs _ => ⟨0xF0FF, 0xF055⟩
  | .ldRegs _ => ⟨0xF0FF, 0xF065⟩
  | .drw _ _ _ => ⟨0xF000, 0xD000⟩
  | .skp _ => ⟨0xF0FF, 0xE09E⟩
  | .sknp _ => ⟨0xF0FF, 0xE0A1⟩
  | .ldKey _ => ⟨0xF0FF, 0xF00A⟩
  | .ldVxDT _ => ⟨0xF0FF, 0xF007⟩
  | .ldDT _ => ⟨0xF0FF, 0xF015⟩
  | .ldST _ => ⟨0xF0FF, 0xF018⟩
  | .ldF _ => ⟨0xF0FF, 0xF029⟩
  | .ldB _ => ⟨0xF0FF, 0xF033⟩

/-- One instruction of each row of R85, in the map's order. -/
def rowHeads : List Instr :=
  [.sys 0, .cls, .ret, .jp 0, .call 0, .jpV0 0, .seImm 0 0, .sneImm 0 0, .seReg 0 0, .sneReg 0 0, .ldImm 0 0, .addImm 0 0,
   .ldReg 0 0, .orReg 0 0, .andReg 0 0, .xorReg 0 0, .addReg 0 0, .subReg 0 0, .shr 0 0, .subnReg 0 0, .shl 0 0, .rnd 0 0,
   .ldI 0, .addI 0, .stRegs 0, .ldRegs 0, .drw 0 0 0, .skp 0, .sknp 0, .ldKey 0, .ldVxDT 0, .ldDT 0, .ldST 0, .ldF 0, .ldB 0]

/-- The opcode map of R85, its 35 rows in order. -/
def opcodeTable : List Row := rowHeads.map Instr.row

/-- The instruction the decoder reads from the `nbits` bits of `w` (bit 0 the least significant bit of the word; every bit
above `nbits` is 0), laid out as the hardware stores them: the high byte first (R80). -/
def decodeTableWord (nbits w : Nat) : Option Instr :=
  let op : Word := BitVec.ofNat 16 (w % 2 ^ nbits)
  match decodeBytes [op.extractLsb' 8 8, op.extractLsb' 0 8] with
  | (.ins i, _) => some i
  | (.unknown _, _) => none

end Sys2Proof
end

