-- ==== Sys2Proof/Config.lean ====
section
/-! DEFINITION. What an implementation fixes (the configuration parameters of 00_scope.md R10) and the model's one free
value. The parameters are plain data: `exec` and `step` take no argument beside the state, so a machine carries its
parameters in a field of State that no operation writes (notes/assumptions/1.md), and a statement over all states holds
for every setting. -/

namespace Sys2Proof

/-- `P_SHIFT_SOURCE`: the operand of SHR and SHL (R10, R148, R150). -/
inductive ShiftSource where
  | vx | vy
  deriving DecidableEq, Repr

/-- `P_JUMP_OFFSET_REG`: the register JP V0, addr adds (R10, R115). -/
inductive JumpOffsetReg where
  | v0 | vx
  deriving DecidableEq, Repr

/-- `P_ADD_I_WRAP`: the width at which arithmetic on I wraps (R10, R171). -/
inductive AddIWrap where
  | bits16 | bits12
  deriving DecidableEq, Repr

/-- `P_SYS_POLICY`: what SYS addr does (R10, R110). -/
inductive SysPolicy where
  | fault | ignore
  deriving DecidableEq, Repr

/-- The configuration parameters of R10. -/
structure Params where
  /-- `P_SHIFT_SOURCE` -/
  shiftSource : ShiftSource
  /-- `P_JUMP_OFFSET_REG` -/
  jumpOffsetReg : JumpOffsetReg
  /-- `P_ADD_I_WRAP` -/
  addIWrap : AddIWrap
  /-- `P_LDST_INCREMENTS_I` -/
  ldstIncrementsI : Bool
  /-- `P_LOGIC_RESETS_VF` -/
  logicResetsVF : Bool
  /-- `P_SYS_POLICY` -/
  sysPolicy : SysPolicy
  /-- `P_FONT`: the bytes at 0x000..0x04F after reset -/
  font : Vector Byte 80
  /-- `P_INIT_MEM`: the bytes at 0x050..0xFFF after reset, as the cells whose byte differs from what an unlisted
  address reads as (0 there); `resetMem` says how it is read -/
  initMem : List Host.Cell
  deriving DecidableEq, Repr

/-- FREE VALUE (notes/assumptions/5.md): the byte the `k`th RND draws when the host has supplied none. 60_exceptions.md
R245: "Its value is unconstrained: any byte, with no relation between draws." -/
opaque Config.rndByte : Nat → Byte

end Sys2Proof
end

