-- ==== Sys2Proof/Machine/Defaults.lean ====
section
/-! DEFINITION. The default parameters (00_scope.md R10), the default font (10_state.md R33) and what a byte of memory that
is not listed reads as. -/

namespace Sys2Proof.Machine

/-- The default `P_FONT`: 16 glyphs of 5 bytes, glyph d at d*5 (R33; the spec marks the bytes as general knowledge,
notes/assumptions/3.md). -/
def defaultFont : Vector Byte 80 :=
  #v[0xF0, 0x90, 0x90, 0x90, 0xF0,  0x20, 0x60, 0x20, 0x20, 0x70,  0xF0, 0x10, 0xF0, 0x80, 0xF0,  0xF0, 0x10, 0xF0, 0x10, 0xF0,
     0x90, 0x90, 0xF0, 0x10, 0x10,  0xF0, 0x80, 0xF0, 0x10, 0xF0,  0xF0, 0x80, 0xF0, 0x90, 0xF0,  0xF0, 0x10, 0x20, 0x40, 0x40,
     0xF0, 0x90, 0xF0, 0x90, 0xF0,  0xF0, 0x90, 0xF0, 0x10, 0xF0,  0xF0, 0x90, 0xF0, 0x90, 0x90,  0xE0, 0x90, 0xE0, 0x90, 0xE0,
     0xF0, 0x80, 0x80, 0x80, 0xF0,  0xE0, 0x90, 0x90, 0x90, 0xE0,  0xF0, 0x80, 0xF0, 0x80, 0xF0,  0xF0, 0x80, 0xF0, 0x80, 0x80]

/-- What an address that memory does not list reads as: the reset contents under the default parameters (R33, R39). The
font bytes are the spec's default `P_FONT`; the 0 above them is DESIGN CHOICE (notes/assumptions/2.md), since R39 leaves
0x050..0xFFF to `P_INIT_MEM`. -/
def unlistedByte (a : Nat) : Byte :=
  if h : a < 80 then defaultFont[a] else 0

/-- The default parameters of R10. `P_INIT_MEM` has none there: all 0 is DESIGN CHOICE (notes/assumptions/2.md). -/
def defaultParams : Params where
  shiftSource := .vx
  jumpOffsetReg := .v0
  addIWrap := .bits16
  ldstIncrementsI := false
  logicResetsVF := false
  sysPolicy := .fault
  font := defaultFont
  initMem := []

end Sys2Proof.Machine
end

