-- ==== Sys2Proof/Machine/State.lean ====
section
/-! DEFINITION. The state of the C8C CHIP-8 core: the tuple of 10_state.md's opening with the keypad, and the model's own
fields (the parameters, the inputs that wait). Plain data throughout. -/

namespace Sys2Proof.Machine

/-- `status.state` (10_state.md R36). -/
inductive CoreState where
  /-- last step completed, or no step yet -/
  | running
  /-- last step was LD Vx, K with no key down -/
  | waitingForKey
  /-- a fault is latched -/
  | faulted
  deriving DecidableEq, Repr

/-- `status.fault_code` (R36; 60_exceptions.md R221). These are the spec's faults: each is latched in the status register
and halts the core, so the model takes it as a NEXT state (`State.raise`), never as a stop of `step`. -/
inductive FaultCode where
  /-- 0: no fault -/
  | noFault
  /-- 1: an illegal word, or SYS under `P_SYS_POLICY` = Fault (R222, R110) -/
  | unknownOpcode
  /-- 2: CALL at SP = 16 (R223) -/
  | stackOverflow
  /-- 3: RET at SP = 0 (R224) -/
  | stackUnderflow
  /-- 4: an image longer than 0xE00 bytes (R225) -/
  | invalidLoad
  deriving DecidableEq, Repr

/-- The 2-bit number of `status.state` (R36). -/
def CoreState.bits : CoreState → BitVec 2
  | .running => 0
  | .waitingForKey => 1
  | .faulted => 2

/-- The 3-bit number of `status.fault_code` (R36, R221). -/
def FaultCode.bits : FaultCode → BitVec 3
  | .noFault => 0
  | .unknownOpcode => 1
  | .stackOverflow => 2
  | .stackUnderflow => 3
  | .invalidLoad => 4

/-- The core status register (R36). -/
structure Status where
  state : CoreState
  faultCode : FaultCode
  faultOpcode : Word
  faultPc : Addr
  deriving DecidableEq, Repr

/-- `(Running, 0, 0, 0)` (R39; 70_reset_and_hazards.md R270). -/
def Status.reset : Status := ⟨.running, .noFault, 0, 0⟩

/-- Memory (20_memory.md R50): the cells whose byte differs from `unlistedByte`, by rising address (`Memory.wf`). -/
abbrev Memory := List Host.Cell

/-- The display buffer (R32): 32 rows of 64 one-bit pixels, row-major; `true` is 1 (set). -/
structure Display where
  rows : Vector (Vector Bool 64) 32
  deriving DecidableEq, Repr

/-- Every pixel 0 (R39). -/
def Display.blank : Display := ⟨Vector.replicate 32 (Vector.replicate 64 false)⟩

/-- The operations that change state at the block's boundary (00_scope.md R6; 60_exceptions.md R240 to R245), each with
what the host gives it. The other operations of R6 only read (`dispGet`, `soundOn`, `statusOut`, `trace`). -/
inductive Op where
  /-- the cycle loop calls the CPU Core once (R242) -/
  | step
  /-- the Timer Unit's tick (R230) -/
  | tick
  /-- reset (R240) -/
  | reset
  /-- load(image) (R241) -/
  | load (image : List Byte)
  /-- key_set(k, down) (R243) -/
  | keySet (k : Nibble) (down : Bool)
  /-- the host supplies a byte on `rnd` (R245, R250) -/
  | rndSupply (byte : Byte)
  deriving DecidableEq, Repr

structure State where
  /-- V0..VF (R20) -/
  v : Vector Byte 16
  /-- I (R27) -/
  i : Word
  /-- PC (R23): between steps the address of the next instruction, in a step that of the instruction executed -/
  pc : Addr
  /-- SP, the number of entries in use, 0 to 16 (R29) -/
  sp : Fin 17
  /-- stack[0..15] (R28) -/
  stack : Vector Word 16
  /-- DT, the delay timer (R30) -/
  dt : Byte
  /-- ST, the sound timer (R30) -/
  st : Byte
  /-- mem[0x000..0xFFF] (R33) -/
  mem : Memory
  /-- disp (R32) -/
  disp : Display
  /-- the core status register (R36) -/
  status : Status
  /-- key[0x0..0xF], true = pressed (R31); the host's, read-only to the core -/
  keys : Vector Bool 16
  /-- MODEL'S OWN: the configuration parameters (R10); no operation writes them (notes/assumptions/1.md) -/
  params : Params
  /-- MODEL'S OWN: bytes supplied on `rnd` and not drawn yet, oldest first (notes/assumptions/5.md) -/
  rndIn : List Byte
  /-- MODEL'S OWN: how many RND have executed, the index of the free value `Config.rndByte` (notes/assumptions/5.md) -/
  rndDraws : Nat
  /-- MODEL'S OWN: the operations that come next in the total order of R249, first one first; when there is none, the core
  steps (notes/assumptions/6.md) -/
  agenda : List Op
  deriving DecidableEq, Repr

/-- Reasons for `step` to stop without a next state: NONE. The spec's four faults are latched in the status register and
leave a next state (`FaultCode`; notes/assumptions/7.md), so this type is empty: no behaviour of the core ends a run of the
model, which is safe, since nothing the hardware does is cut off. -/
inductive Fault
  deriving DecidableEq, Repr

/-- Reasons to give an instruction no meaning. -/
inductive Refusal where
  /-- raised by an arm of `exec` whose instruction has no meaning yet; no arm raises it; it would be safe (a stop) -/
  | notModelled (mnemonic : String)
  deriving DecidableEq, Repr

/-- The machine right after reset (R39; R270) under the default parameters. No byte of memory is listed: the font and
`P_INIT_MEM` of the defaults are what unlisted addresses read as. The keypad (host input, R39) is all released: DESIGN
CHOICE, notes/assumptions/4.md. The model's own fields: notes/assumptions/1.md, 2.md, 5.md, 6.md. -/
def State.reset : State where
  v := Vector.replicate 16 0
  i := 0
  pc := 0x200
  sp := 0
  stack := Vector.replicate 16 0
  dt := 0
  st := 0
  mem := []
  disp := Display.blank
  status := Status.reset
  keys := Vector.replicate 16 false
  params := defaultParams
  rndIn := []
  rndDraws := 0
  agenda := []

end Sys2Proof.Machine
end

