-- ==== Sys2Proof/Machine/Ops.lean ====
section
/-! DEFINITION. The operations over memory, registers, stack, display and keypad that the meanings share, the three ends of
an instruction (next, hold, raise), and fetch. -/

namespace Sys2Proof.Machine

/-! ## Memory (20_memory.md) -/

/-- The byte at address `a`: the first cell listed for it, else `unlistedByte` (R60). -/
def Memory.read : Memory → Nat → Byte
  | [], a => unlistedByte a
  | (b, w) :: rest, a => if b = a then w else Memory.read rest a

/-- The memory after the byte at `a` becomes `v` (R56: only that byte). Keeps the canonical form: a byte equal to what the
unlisted address reads as is not listed. -/
def Memory.write : Memory → Nat → Byte → Memory
  | [], a, v => if v = unlistedByte a then [] else [(a, v)]
  | (b, w) :: rest, a, v =>
    if b < a then (b, w) :: Memory.write rest a v
    else if b = a then (if v = unlistedByte a then rest else (a, v) :: rest)
    else (if v = unlistedByte a then (b, w) :: rest else (a, v) :: (b, w) :: rest)

/-- The canonical form: addresses strictly rising and inside the 4096 bytes (R50), no cell equal to what its address reads
as unlisted. -/
def Memory.wf : Memory → Bool
  | [] => true
  | (a, v) :: rest => a < 0x1000 && v != unlistedByte a && rest.all (fun c => a < c.1) && Memory.wf rest

/-- `a & 0xFFF` (R52). -/
def maskAddr (a : Word) : Addr := a.setWidth 12

/-- The byte at a 12-bit address, read for inspection (60_exceptions.md R248) and by `memRead`. -/
def State.byteAt (s : State) (a : Addr) : Byte := s.mem.read a.toNat

/-- `MemRead(a, 1)` (00_scope.md R13): the byte at `a & 0xFFF`. -/
def State.memRead (s : State) (a : Word) : Byte := s.byteAt (maskAddr a)

/-- `MemWrite(a, 1, v)` (R13), on the memory alone. -/
def Memory.put (m : Memory) (a : Word) (v : Byte) : Memory := m.write (maskAddr a).toNat v

/-- The memory replaced. -/
def State.setMem (s : State) (m : Memory) : State := { s with mem := m }

/-! ## Registers (10_state.md) -/

/-- `V[x]` (R12, R20). -/
def State.getV (s : State) (x : Nibble) : Byte := s.v[x.toNat]'x.isLt

/-- `V[x] <- b` (R12, R20). -/
def State.setV (s : State) (x : Nibble) (b : Byte) : State := { s with v := s.v.set x.toNat b x.isLt }

/-- `I <- w` (R27). -/
def State.setI (s : State) (w : Word) : State := { s with i := w }

/-- `DT <- b` (R30). -/
def State.setDT (s : State) (b : Byte) : State := { s with dt := b }

/-- `ST <- b` (R30). -/
def State.setST (s : State) (b : Byte) : State := { s with st := b }

/-! ## The call stack (10_state.md R28, R29) -/

/-- `stack[j]` (R12). -/
def State.stackAt (s : State) (j : Fin 16) : Word := s.stack[j.val]

/-- Push: writes `stack[SP]`, then increments SP; none when the stack is full (R29). -/
def State.push (s : State) (w : Word) : Option State :=
  if h : s.sp.val < 16 then
    some { s with stack := s.stack.set s.sp.val w h, sp := ⟨s.sp.val + 1, Nat.succ_lt_succ h⟩ }
  else none

/-- Pop: decrements SP, then reads `stack[SP]`, which stays in place; none when the stack is empty (R29). -/
def State.pop (s : State) : Option (Word × State) :=
  if h : s.sp.val = 0 then none
  else
    have hlt : s.sp.val - 1 < 16 := by have := s.sp.isLt; omega
    some (s.stack[s.sp.val - 1], { s with sp := ⟨s.sp.val - 1, Nat.lt_succ_of_lt hlt⟩ })

/-! ## The display buffer (45_draw.md R180) -/

/-- `get(x, y)`: the pixel at column x, row y. -/
def Display.get (d : Display) (px : Fin 64) (py : Fin 32) : Bool := d.rows[py.val][px.val]

/-- The pixel at column x, row y becomes `b`. -/
def Display.put (d : Display) (px : Fin 64) (py : Fin 32) (b : Bool) : Display :=
  ⟨d.rows.set py.val (d.rows[py.val].set px.val b)⟩

/-- `set_pixel(x, y) -> previous_value`: the pixel's value, and the display with it inverted (R180). -/
def Display.setPixel (d : Display) (px : Fin 64) (py : Fin 32) : Bool × Display :=
  (d.get px py, d.put px py (!d.get px py))

/-- The pixel of linear index k, `y*64 + x` (10_state.md R32). -/
def Display.atIndex (d : Display) (k : Fin 2048) : Bool :=
  d.get (Fin.ofNat 64 (k.val % 64)) (Fin.ofNat 32 (k.val / 64))

/-- The display replaced. -/
def State.setDisp (s : State) (d : Display) : State := { s with disp := d }

/-! ## The keypad (10_state.md R31) -/

/-- `key[k]` (R12). -/
def State.keyDown (s : State) (k : Nibble) : Bool := s.keys[k.toNat]'k.isLt

/-- The lowest-numbered key that is down (46_input.md R192: `min { k | key[k] }`). -/
def State.lowestKey (s : State) : Option Nat := s.keys.toList.findIdx? id

/-! ## The random byte (60_exceptions.md R245; notes/assumptions/5.md) -/

/-- The byte the next RND draws: the oldest one the host has supplied, else the free value of this draw. -/
def State.rndByte (s : State) : Byte :=
  match s.rndIn with
  | [] => Config.rndByte s.rndDraws
  | b :: _ => b

/-- The inputs after a draw: the byte is used up, and the next draw is another one ("drawn afresh", R151). -/
def State.drawn (s : State) : State := { s with rndIn := s.rndIn.tail, rndDraws := s.rndDraws + 1 }

/-! ## The ends of an instruction (00_scope.md R16; 40_step.md R100) -/

/-- `next(t)`: the writes made, `PC <- t` and `status.state <- Running` (R100, R102). -/
def State.finish (s : State) (t : Addr) : State :=
  { s with pc := t, status := { s.status with state := .running } }

/-- `hold`: `status.state <- WaitingForKey`, nothing else changes (R100). -/
def State.hold (s : State) : State :=
  { s with status := { s.status with state := .waitingForKey } }

/-- TAKING A FAULT, `raise F` (00_scope.md R14; 60_exceptions.md R226, R221): no architectural state is written; the status
register becomes (Faulted, code, opcode, pc). Control goes nowhere and there is no return from a fault: only reset
(`State.resetOp`) leaves Faulted (R227). -/
def State.raise (s : State) (code : FaultCode) (op : Word) (pc : Addr) : State :=
  { s with status := ⟨.faulted, code, op, pc⟩ }

/-- The address of the next instruction, `pc + 2` modulo 0x1000 (R16, R24). -/
def State.pcNext (s : State) : Addr := s.pc + 2

/-- The address after a taken skip, `pc + 4` modulo 0x1000 (R16, R24). -/
def State.pcSkip (s : State) : Addr := s.pc + 4

/-- `return next(pc + 2)` -/
def State.done (s : State) : State := s.finish s.pcNext

/-- `return next(cond ? pc + 4 : pc + 2)` (42_skip.md) -/
def State.skipIf (s : State) (cond : Bool) : State := s.finish (if cond then s.pcSkip else s.pcNext)

/-- What an instruction or a step ends in. Every meaning answers `next`: a fault of the spec is a state (`State.raise`). -/
abbrev Result := Host.Outcome State Fault Refusal

/-! ## Fetch (40_step.md R101) -/

/-- `{MemRead(pc, 1), MemRead(pc + 1, 1)}`: two bytes, high byte first, each address masked (20_memory.md R52, R53). -/
def State.fetch (s : State) : Word :=
  wordOfBytes (s.memRead (s.pc.setWidth 16)) (s.memRead (s.pc.setWidth 16 + 1))

end Sys2Proof.Machine
end

