-- ==== Sys2Proof/Machine/Operands.lean ====
section
/-! DEFINITION. The operand forms. A register operand is `State.getV` and an immediate `kk`, `n` or `nnn` is used as is
(30_encoding.md R83); the forms below are those that choose, mask or compute. -/

namespace Sys2Proof.Machine

/-- The flag register VF (10_state.md R21). -/
abbrev vF : Nibble := 0xF#4

/-- The operand of SHR and SHL, by `P_SHIFT_SOURCE` (43_load_arith.md R148, R150). -/
def State.shiftOperand (s : State) (x y : Nibble) : Byte :=
  match s.params.shiftSource with
  | .vx => s.getV x
  | .vy => s.getV y

/-- The register JP V0, addr adds, by `P_JUMP_OFFSET_REG`: V0, or Vx with x = nnn[11:8] (41_control_flow.md R115). -/
def State.jumpOffset (s : State) (nnn : Addr) : Byte :=
  match s.params.jumpOffsetReg with
  | .v0 => s.getV 0
  | .vx => s.getV (nnn.extractLsb' 8 4)

/-- `V[x] & 0xF`: the key number of SKP and SKNP (46_input.md R190), the digit of LD F (48_bcd_font.md R210). -/
def State.lowNibble (s : State) (x : Nibble) : Nibble := (s.getV x).setWidth 4

/-- `wrapI(v)`, by `P_ADD_I_WRAP`: `v mod 0x10000` or `v mod 0x1000` (44_memory_index.md). -/
def State.wrapI (s : State) (v : Nat) : Word :=
  match s.params.addIWrap with
  | .bits16 => BitVec.ofNat 16 v
  | .bits12 => BitVec.ofNat 16 (v % 0x1000)

/-- `I + k`, the one address of a data access, masked when it is used (20_memory.md R52). -/
def State.atI (s : State) (k : Nat) : Word := s.i + BitVec.ofNat 16 k

/-- I after LD [I], Vx or LD Vx, [I]: `wrapI(I + x + 1)` when `P_LDST_INCREMENTS_I`, else I (R172, R173). -/
def State.iAfterBlock (s : State) (x : Nibble) : Word :=
  if s.params.ldstIncrementsI then s.wrapI (s.i.toNat + x.toNat + 1) else s.i

/-- The memory after `MemWrite(base + k, 1, byte k)` for each byte in turn. -/
def Memory.putBytes : Memory → Word → List Byte → Memory
  | m, _, [] => m
  | m, a, b :: bs => Memory.putBytes (m.put a b) (a + 1) bs

/-- V0 to Vx, in order (R172). -/
def State.regsUpTo (s : State) (x : Nibble) : List Byte := s.v.toList.take (x.toNat + 1)

/-- The registers after `V[k] <- MemRead(I + k, 1)` for k in 0..n-1; every read is of the state before (R173). -/
def State.loadedRegs (s : State) (n : Nat) : Vector Byte 16 :=
  (List.range n).foldl (fun v k => v.setIfInBounds k (s.memRead (s.atI k))) s.v

/-- The registers replaced. -/
def State.setRegs (s : State) (v : Vector Byte 16) : State := { s with v := v }

end Sys2Proof.Machine
end

