-- ==== Sys2Proof/Machine/Flags.lean ====
section
/-! DEFINITION. Every flag computation of the spec. The only flag is VF (10_state.md R21, R35); it is written last
(00_scope.md R15). -/

namespace Sys2Proof.Machine

/-- A condition as a flag value: 1 or 0. -/
def flag (c : Bool) : Byte := if c then 1 else 0

/-- ADD Vx, Vy: the unsigned sum exceeds 255 (43_load_arith.md R146). -/
def carryFlag (a b : Byte) : Byte := flag (255 < a.toNat + b.toNat)

/-- SUB, SUBN: 1 when there is no borrow, `a >= b` (R147, R149; decision D9 of the spec, notes/assumptions/10.md). -/
def noBorrowFlag (a b : Byte) : Byte := flag (b.toNat ≤ a.toNat)

/-- SHR: the bit shifted out, `s[0]` (R148). -/
def shrFlag (a : Byte) : Byte := flag (a.getLsbD 0)

/-- SHL: the bit shifted out, `s[7]` (R150). -/
def shlFlag (a : Byte) : Byte := flag (a.getLsbD 7)

/-- A result and a flag: the result first, VF last, so VF holds the flag when x = 0xF (R15). -/
def State.setResultFlag (s : State) (x : Nibble) (result f : Byte) : State := (s.setV x result).setV vF f

/-- A result of OR, AND, XOR: VF becomes 0 only when `P_LOGIC_RESETS_VF` (R143 to R145). -/
def State.setLogic (s : State) (x : Nibble) (result : Byte) : State :=
  if s.params.logicResetsVF then s.setResultFlag x result 0 else s.setV x result

end Sys2Proof.Machine
end

