-- ==== Sys2Proof/Machine/BcdFont.lean ====
section
/-! DEFINITION. BCD and font (48_bcd_font.md). -/

namespace Sys2Proof.Machine

/-- LD F, Vx (R210): `(V[x] & 0xF) * 5`. -/
def execLdF (x : Nibble) (s : State) : Result :=
  .next (s.setI (BitVec.ofNat 16 ((s.lowNibble x).toNat * 5))).done

/-- The hundreds, tens and ones digits (R211). -/
def bcdDigits (v : Byte) : List Byte :=
  [BitVec.ofNat 8 (v.toNat / 100), BitVec.ofNat 8 (v.toNat / 10 % 10), BitVec.ofNat 8 (v.toNat % 10)]

/-- LD B, Vx (R211): the digits at I, I+1, I+2. -/
def execLdB (x : Nibble) (s : State) : Result :=
  .next (s.setMem (s.mem.putBytes s.i (bcdDigits (s.getV x)))).done

end Sys2Proof.Machine
end

