-- ==== Sys2Proof/Machine/Control.lean ====
section
/-! DEFINITION. The control-flow instructions (41_control_flow.md). A fault records the instruction's own word, which is the word
fetched (notes/assumptions/9.md). -/

namespace Sys2Proof.Machine

/-- SYS addr (R110): UnknownOpcode under `P_SYS_POLICY` = Fault, else only the PC advances. -/
def execSys (nnn : Addr) (s : State) : Result :=
  match s.params.sysPolicy with
  | .fault => .next (s.raise .unknownOpcode (encode (.sys nnn)) s.pc)
  | .ignore => .next s.done

/-- CLS (R111). -/
def execCls (s : State) : Result :=
  .next (s.setDisp Display.blank).done

/-- RET (R112): the PC is the popped entry's low 12 bits, with no advance; StackUnderflow on an empty stack. -/
def execRet (s : State) : Result :=
  match s.pop with
  | none => .next (s.raise .stackUnderflow (encode .ret) s.pc)
  | some (entry, s') => .next (s'.finish (entry.setWidth 12))

/-- JP addr (R113). -/
def execJp (nnn : Addr) (s : State) : Result :=
  .next (s.finish nnn)

/-- CALL addr (R114): pushes `zext_16(pc + 2)`; StackOverflow on a full stack. -/
def execCall (nnn : Addr) (s : State) : Result :=
  match s.push (s.pcNext.setWidth 16) with
  | none => .next (s.raise .stackOverflow (encode (.call nnn)) s.pc)
  | some s' => .next (s'.finish nnn)

/-- JP V0, addr (R115): `(nnn + r) mod 0x1000`. -/
def execJpV0 (nnn : Addr) (s : State) : Result :=
  .next (s.finish (nnn + (s.jumpOffset nnn).setWidth 12))

end Sys2Proof.Machine
end

