-- ==== Sys2Proof/Machine/Draw.lean ====
section
/-! DEFINITION. Drawing (45_draw.md). -/

namespace Sys2Proof.Machine

/-- The display so far and whether a pixel went from set to unset. -/
abbrev Drawing := Display × Bool

/-- One bit of a sprite at a pixel: a set bit inverts the pixel, a zero bit changes nothing (R181, R180). -/
def drawBit (g : Drawing) (px : Fin 64) (py : Fin 32) (bit : Bool) : Drawing :=
  if bit then
    let (previous, d) := g.1.setPixel px py
    (d, g.2 || previous)
  else g

/-- One sprite row: column `col` is bit `7 - col`, at x = `(cx + col) mod 64` (R181). -/
def drawRow (g : Drawing) (cx : Nat) (py : Fin 32) (b : Byte) : Drawing :=
  (List.range 8).foldl (fun g col => drawBit g (Fin.ofNat 64 (cx + col)) py (b.getLsbD (7 - col))) g

/-- Rows 0 to n-1 of the sprite at I, row `row` at y = `(cy + row) mod 32` (R181). -/
def State.drawSprite (s : State) (cx cy n : Nat) : Drawing :=
  (List.range n).foldl (fun g row => drawRow g cx (Fin.ofNat 32 (cy + row)) (s.memRead (s.atI row))) (s.disp, false)

/-- DRW Vx, Vy, n (R181): completes within its step (R182); VF, the collision, is written last. -/
def execDrw (x y n : Nibble) (s : State) : Result :=
  let g := s.drawSprite (s.getV x).toNat (s.getV y).toNat n.toNat
  .next ((s.setDisp g.1).setV vF (flag g.2)).done

end Sys2Proof.Machine
end

