-- ==== Sys2Proof/Machine/Index.lean ====
section
/-! DEFINITION. The index register and the memory block (44_memory_index.md). No flag. -/

namespace Sys2Proof.Machine

/-- LD I, addr (R170). -/
def execLdI (nnn : Addr) (s : State) : Result :=
  .next (s.setI (nnn.setWidth 16)).done

/-- ADD I, Vx (R171). -/
def execAddI (x : Nibble) (s : State) : Result :=
  .next (s.setI (s.wrapI (s.i.toNat + (s.getV x).toNat))).done

/-- LD [I], Vx (R172): V0 to Vx at I, I+1, ..., I+x. -/
def execStRegs (x : Nibble) (s : State) : Result :=
  .next ((s.setMem (s.mem.putBytes s.i (s.regsUpTo x))).setI (s.iAfterBlock x)).done

/-- LD Vx, [I] (R173): V0 to Vx from I, I+1, ..., I+x. -/
def execLdRegs (x : Nibble) (s : State) : Result :=
  .next ((s.setRegs (s.loadedRegs (x.toNat + 1))).setI (s.iAfterBlock x)).done

end Sys2Proof.Machine
end

