-- ==== Sys2Proof/Machine/Input.lean ====
section
/-! DEFINITION. Keypad input (46_input.md). A step reads one snapshot of the keypad (20_memory.md R62). -/

namespace Sys2Proof.Machine

/-- SKP Vx (R190). -/
def execSkp (x : Nibble) (s : State) : Result :=
  .next (s.skipIf (s.keyDown (s.lowNibble x)))

/-- SKNP Vx (R191). -/
def execSknp (x : Nibble) (s : State) : Result :=
  .next (s.skipIf (!s.keyDown (s.lowNibble x)))

/-- LD Vx, K (R192): the lowest-numbered key that is down, or a hold while none is. -/
def execLdKey (x : Nibble) (s : State) : Result :=
  match s.lowestKey with
  | some k => .next (s.setV x (BitVec.ofNat 8 k)).done
  | none => .next s.hold

end Sys2Proof.Machine
end

