-- ==== Sys2Proof/Machine/LoadArith.lean ====
section
/-! DEFINITION. Load and arithmetic (43_load_arith.md). Operands are read from the state before; results are computed on
naturals and reduced mod 256. -/

namespace Sys2Proof.Machine

/-- LD Vx, kk (R140). -/
def execLdImm (x : Nibble) (kk : Byte) (s : State) : Result :=
  .next (s.setV x kk).done

/-- ADD Vx, kk (R141): no flag, even on a carry (90_conflicts.md C5). -/
def execAddImm (x : Nibble) (kk : Byte) (s : State) : Result :=
  .next (s.setV x (BitVec.ofNat 8 ((s.getV x).toNat + kk.toNat))).done

/-- LD Vx, Vy (R142). -/
def execLdReg (x y : Nibble) (s : State) : Result :=
  .next (s.setV x (s.getV y)).done

/-- OR Vx, Vy (R143). -/
def execOrReg (x y : Nibble) (s : State) : Result :=
  .next (s.setLogic x (s.getV x ||| s.getV y)).done

/-- AND Vx, Vy (R144). -/
def execAndReg (x y : Nibble) (s : State) : Result :=
  .next (s.setLogic x (s.getV x &&& s.getV y)).done

/-- XOR Vx, Vy (R145). -/
def execXorReg (x y : Nibble) (s : State) : Result :=
  .next (s.setLogic x (s.getV x ^^^ s.getV y)).done

/-- ADD Vx, Vy (R146). -/
def execAddReg (x y : Nibble) (s : State) : Result :=
  let a := s.getV x
  let b := s.getV y
  .next (s.setResultFlag x (BitVec.ofNat 8 (a.toNat + b.toNat)) (carryFlag a b)).done

/-- SUB Vx, Vy (R147): `(a - b) mod 256`, 1 = no borrow. -/
def execSubReg (x y : Nibble) (s : State) : Result :=
  let a := s.getV x
  let b := s.getV y
  .next (s.setResultFlag x (a - b) (noBorrowFlag a b)).done

/-- SHR Vx with an optional Vy (R148). -/
def execShr (x y : Nibble) (s : State) : Result :=
  let a := s.shiftOperand x y
  .next (s.setResultFlag x (a >>> 1) (shrFlag a)).done

/-- SUBN Vx, Vy (R149): `(b - a) mod 256`, 1 = no borrow. -/
def execSubnReg (x y : Nibble) (s : State) : Result :=
  let a := s.getV x
  let b := s.getV y
  .next (s.setResultFlag x (b - a) (noBorrowFlag b a)).done

/-- SHL Vx with an optional Vy (R150). -/
def execShl (x y : Nibble) (s : State) : Result :=
  let a := s.shiftOperand x y
  .next (s.setResultFlag x (a <<< 1) (shlFlag a)).done

/-- RND Vx, kk (R151): a byte of the `rnd` input AND kk. -/
def execRnd (x : Nibble) (kk : Byte) (s : State) : Result :=
  .next (s.drawn.setV x (s.rndByte &&& kk)).done

end Sys2Proof.Machine
end

