-- ==== Sys2Proof/Machine/Skip.lean ====
section
/-! DEFINITION. The conditional skips (42_skip.md). The word skipped is neither fetched nor decoded. -/

namespace Sys2Proof.Machine

/-- SE Vx, kk (R130). -/
def execSeImm (x : Nibble) (kk : Byte) (s : State) : Result :=
  .next (s.skipIf (s.getV x == kk))

/-- SNE Vx, kk (R131). -/
def execSneImm (x : Nibble) (kk : Byte) (s : State) : Result :=
  .next (s.skipIf (s.getV x != kk))

/-- SE Vx, Vy (R132). -/
def execSeReg (x y : Nibble) (s : State) : Result :=
  .next (s.skipIf (s.getV x == s.getV y))

/-- SNE Vx, Vy (R133). -/
def execSneReg (x y : Nibble) (s : State) : Result :=
  .next (s.skipIf (s.getV x != s.getV y))

end Sys2Proof.Machine
end

