-- ==== Sys2Proof/Machine/Timers.lean ====
section
/-! DEFINITION. The timer instructions (47_timers.md). None decrements a counter. -/

namespace Sys2Proof.Machine

/-- LD Vx, DT (R200). -/
def execLdVxDT (x : Nibble) (s : State) : Result :=
  .next (s.setV x s.dt).done

/-- LD DT, Vx (R201). -/
def execLdDT (x : Nibble) (s : State) : Result :=
  .next (s.setDT (s.getV x)).done

/-- LD ST, Vx (R202). -/
def execLdST (x : Nibble) (s : State) : Result :=
  .next (s.setST (s.getV x)).done

end Sys2Proof.Machine
end

