-- ==== Sys2Proof/Machine/HostOps.lean ====
section
/-! DEFINITION. The operations of the host and of the Timer Unit (60_exceptions.md R230, R240 to R248), the outputs, and reset. -/

namespace Sys2Proof.Machine

/-- `tick()` (R230): each counter down by 1 unless 0, whatever the core does (R232). -/
def State.tick (s : State) : State :=
  { s with dt := if s.dt = 0 then 0 else s.dt - 1, st := if s.st = 0 then 0 else s.st - 1 }

/-- `key_set(k, down)` (R243). -/
def State.keySet (s : State) (k : Nibble) (down : Bool) : State :=
  { s with keys := s.keys.set k.toNat down k.isLt }

/-- A byte supplied on `rnd` (R245, R250), drawn after those supplied before it. -/
def State.rndSupply (s : State) (b : Byte) : State := { s with rndIn := s.rndIn ++ [b] }

/-- `mem[a + k] <- image[k]` for each k in turn (R241). -/
def Memory.loadFrom : Memory → Nat → List Byte → Memory
  | m, _, [] => m
  | m, a, b :: bs => Memory.loadFrom (m.write a b) (a + 1) bs

/-- `load(image)` (R241): the image at 0x200 up, or InvalidLoad with no byte written when it is longer than 0xE00 (R225;
on a core already Faulted, notes/assumptions/8.md). -/
def State.load (s : State) (image : List Byte) : State :=
  if 0xE00 < image.length then s.raise .invalidLoad 0 0
  else s.setMem (s.mem.loadFrom 0x200 image)

/-- The memory after reset (70_reset_and_hazards.md R270): `P_FONT` at 0x000..0x04F, `P_INIT_MEM` above. `P_INIT_MEM[a]` is
`p.initMem.read a`: a cell of `initMem`, the first for its address, else what an unlisted address reads as. -/
def resetMem (p : Params) : Memory :=
  p.initMem.foldr (fun c m => if 0x50 ≤ c.1 ∧ c.1 < 0x1000 then m.write c.1 c.2 else m)
    (Memory.loadFrom [] 0 p.font.toList)

/-- `reset()` (R240, R270, R271), at any time and in any state: every element of 10_state.md R39. The keypad is not reset
(R31); the parameters and the inputs that wait are not the core's to reset (notes/assumptions/1.md, 5.md, 6.md). -/
def State.resetOp (s : State) : State :=
  { State.reset with
    mem := resetMem s.params
    keys := s.keys
    params := s.params
    rndIn := s.rndIn
    rndDraws := s.rndDraws
    agenda := s.agenda }

/-! Outputs: functions of the state that change nothing (R244, R246 to R248). -/

/-- `sound_on` (R244): `ST != 0`. -/
def State.soundOn (s : State) : Bool := s.st != 0

/-- `disp_get(x, y)` (R246): `disp[x mod 64][y mod 32]`. -/
def State.dispGet (s : State) (x y : Nat) : Bool := s.disp.get (Fin.ofNat 64 x) (Fin.ofNat 32 y)

/-- `status` (R247): the fields of the status register as the numbers of 10_state.md R36. -/
def State.statusOut (s : State) : BitVec 2 × BitVec 3 × Word × Addr :=
  (s.status.state.bits, s.status.faultCode.bits, s.status.faultOpcode, s.status.faultPc)

/-- One record of the trace (R248): `trace(pc, op, ins)`. -/
structure TraceRecord where
  pc : Addr
  op : Word
  ins : Decoded
  deriving DecidableEq, Repr

/-- What the core's step emits on the trace: one record after decode, an unknown word's too; nothing on a Faulted core
(R248; 40_step.md R100, R104). -/
def State.trace (s : State) : Option TraceRecord :=
  if s.status.state = .faulted then none
  else some ⟨s.pc, s.fetch, decodeWord s.fetch⟩

end Sys2Proof.Machine
end

