-- ==== Sys2Proof/Machine/Cycle.lean ====
section
/-! DEFINITION. The CPU Core's `step()` and the next operation of the total order (40_step.md R100; 60_exceptions.md R249). -/

namespace Sys2Proof.Machine

/-- `step()` (R100): nothing on a Faulted core (R104); fetch; decode, an unknown word raising UnknownOpcode (R222); execute. A
core in WaitingForKey steps like a Running one (R105). -/
def State.cpuStep (s : State) : Result :=
  if s.status.state = .faulted then .next s
  else
    match decodeWord s.fetch with
    | .unknown _ => .next (s.raise .unknownOpcode s.fetch s.pc)
    | .ins i => exec i s

/-- One operation of the boundary (00_scope.md R6), whole. -/
def State.perform (s : State) : Op → Result
  | .step => s.cpuStep
  | .tick => .next s.tick
  | .reset => .next s.resetOp
  | .load image => .next (s.load image)
  | .keySet k down => .next (s.keySet k down)
  | .rndSupply b => .next (s.rndSupply b)

/-- The state in which the next step fetches `op`: its two bytes stored high byte first at PC and PC + 1, no operation of
another agent before the step, and no latched fault (a Faulted core fetches nothing, R104). -/
def State.placed (s : State) (op : Word) : State :=
  { s with
    mem := s.mem.putBytes (s.pc.setWidth 16) [op.extractLsb' 8 8, op.extractLsb' 0 8]
    status := if s.status.state = .faulted then Status.reset else s.status
    agenda := [] }

end Sys2Proof.Machine
end

