-- ==== Sys2Proof/Machine/Step.lean ====
section
/-! DEFINITION. The machine's one step: the next operation of the total order (60_exceptions.md R249), the CPU Core's step when
no other stands in the agenda (notes/assumptions/6.md). -/

namespace Sys2Proof.Machine

def step (s : State) : Host.Outcome State Fault Refusal :=
  match s.agenda with
  | [] => s.cpuStep
  | op :: rest => State.perform { s with agenda := rest } op

/-- `s` with the instruction of the `nbits` bits of `w` stored where the next step fetches, so that the very next step runs
it (notes/assumptions/11.md). -/
def State.withFetchWord (s : State) (nbits w : Nat) : State :=
  s.placed (BitVec.ofNat 16 (w % 2 ^ nbits))

end Sys2Proof.Machine
end

