-- ==== Sys2Proof/Machine/Assembler.lean ====
section
/-! DEFINITION. Assembler syntax (30_encoding.md R89): a mnemonic, then operands separated by commas; registers V0 to VF,
numbers in hexadecimal with `0x` (the spec's test vectors; R89 fixes no number syntax). It has no effect on the machine. -/

namespace Sys2Proof.Machine

def hexDigit (d : Nibble) : String :=
  match d.toNat with
  | 0 => "0" | 1 => "1" | 2 => "2" | 3 => "3" | 4 => "4" | 5 => "5" | 6 => "6" | 7 => "7"
  | 8 => "8" | 9 => "9" | 10 => "A" | 11 => "B" | 12 => "C" | 13 => "D" | 14 => "E" | _ => "F"

/-- `V0` to `VF` -/
def vText (x : Nibble) : String := "V" ++ hexDigit x

def nibbleText (n : Nibble) : String := "0x" ++ hexDigit n

def byteText (b : Byte) : String := "0x" ++ hexDigit (b.extractLsb' 4 4) ++ hexDigit (b.extractLsb' 0 4)

def addrText (a : Addr) : String :=
  "0x" ++ hexDigit (a.extractLsb' 8 4) ++ hexDigit (a.extractLsb' 4 4) ++ hexDigit (a.extractLsb' 0 4)

/-- The assembler text of an instruction: the mnemonic column of R85. SHR and SHL are written with their `Vy`, which is in
the encoding whatever `P_SHIFT_SOURCE` says. -/
def asmText : Instr → String
  | .sys nnn => "SYS " ++ addrText nnn
  | .cls => "CLS"
  | .ret => "RET"
  | .jp nnn => "JP " ++ addrText nnn
  | .call nnn => "CALL " ++ addrText nnn
  | .jpV0 nnn => "JP V0, " ++ addrText nnn
  | .seImm x kk => "SE " ++ vText x ++ ", " ++ byteText kk
  | .sneImm x kk => "SNE " ++ vText x ++ ", " ++ byteText kk
  | .seReg x y => "SE " ++ vText x ++ ", " ++ vText y
  | .sneReg x y => "SNE " ++ vText x ++ ", " ++ vText y
  | .ldImm x kk => "LD " ++ vText x ++ ", " ++ byteText kk
  | .addImm x kk => "ADD " ++ vText x ++ ", " ++ byteText kk
  | .ldReg x y => "LD " ++ vText x ++ ", " ++ vText y
  | .orReg x y => "OR " ++ vText x ++ ", " ++ vText y
  | .andReg x y => "AND " ++ vText x ++ ", " ++ vText y
  | .xorReg x y => "XOR " ++ vText x ++ ", " ++ vText y
  | .addReg x y => "ADD " ++ vText x ++ ", " ++ vText y
  | .subReg x y => "SUB " ++ vText x ++ ", " ++ vText y
  | .shr x y => "SHR " ++ vText x ++ ", " ++ vText y
  | .subnReg x y => "SUBN " ++ vText x ++ ", " ++ vText y
  | .shl x y => "SHL " ++ vText x ++ ", " ++ vText y
  | .rnd x kk => "RND " ++ vText x ++ ", " ++ byteText kk
  | .ldI nnn => "LD I, " ++ addrText nnn
  | .addI x => "ADD I, " ++ vText x
  | .stRegs x => "LD [I], " ++ vText x
  | .ldRegs x => "LD " ++ vText x ++ ", [I]"
  | .drw x y n => "DRW " ++ vText x ++ ", " ++ vText y ++ ", " ++ nibbleText n
  | .skp x => "SKP " ++ vText x
  | .sknp x => "SKNP " ++ vText x
  | .ldKey x => "LD " ++ vText x ++ ", K"
  | .ldVxDT x => "LD " ++ vText x ++ ", DT"
  | .ldDT x => "LD DT, " ++ vText x
  | .ldST x => "LD ST, " ++ vText x
  | .ldF x => "LD F, " ++ vText x
  | .ldB x => "LD B, " ++ vText x

end Sys2Proof.Machine
end

