-- ==== Sys2Proof/Safety.lean ====
section
/-! DEFINITION. The terms claims are stated in: the parts of the state and what an operation leaves unchanged, the invariant
of the machine, and the end of a run. -/

namespace Sys2Proof.Machine

/-! ## Parts and frames -/

/-- Every part of the state that can change on its own: a register, a byte of memory, a pixel, a key, ... -/
inductive Part where
  | v (x : Nibble)
  | i
  | pc
  | sp
  | stack (j : Fin 16)
  | dt
  | st
  | mem (a : Addr)
  | pixel (px : Fin 64) (py : Fin 32)
  /-- `status.state` -/
  | coreState
  /-- `status.fault_code`, `fault_opcode` and `fault_pc` -/
  | faultRecord
  | key (k : Nibble)
  | params
  | rndIn
  | rndDraws
  | agenda
  deriving DecidableEq, Repr

/-- The part reads the same in the two states. Memory is read byte by byte (`State.byteAt`), the display pixel by pixel. -/
def Part.Same (s t : State) : Part → Prop
  | .v x => t.getV x = s.getV x
  | .i => t.i = s.i
  | .pc => t.pc = s.pc
  | .sp => t.sp = s.sp
  | .stack j => t.stackAt j = s.stackAt j
  | .dt => t.dt = s.dt
  | .st => t.st = s.st
  | .mem a => t.byteAt a = s.byteAt a
  | .pixel px py => t.disp.get px py = s.disp.get px py
  | .coreState => t.status.state = s.status.state
  | .faultRecord => t.status.faultCode = s.status.faultCode ∧ t.status.faultOpcode = s.status.faultOpcode ∧
      t.status.faultPc = s.status.faultPc
  | .key k => t.keyDown k = s.keyDown k
  | .params => t.params = s.params
  | .rndIn => t.rndIn = s.rndIn
  | .rndDraws => t.rndDraws = s.rndDraws
  | .agenda => t.agenda = s.agenda

/-- Everything outside `changed` reads in `t` as it did in `s`: the frame of an operation. -/
def OnlyChanges (changed : Part → Prop) (s t : State) : Prop :=
  ∀ p : Part, ¬changed p → p.Same s t

/-- The parts every completed instruction may write beside its own (40_step.md R100): the PC and `status.state`. -/
def Part.control (p : Part) : Prop := p = .pc ∨ p = .coreState

/-- The PC and `status.state`, and the parts listed: what an instruction that completes may write. -/
def writes (l : List Part) (p : Part) : Prop := p.control ∨ p ∈ l

/-- The two parts of the status register, all that taking a fault writes (60_exceptions.md R226). -/
def Part.status (p : Part) : Prop := p = .coreState ∨ p = .faultRecord

/-- The core is Faulted with this record: the `status` output is (Faulted, code, opcode, pc). -/
def State.FaultedWith (s : State) (code : FaultCode) (op : Word) (pc : Addr) : Prop :=
  s.status.state = .faulted ∧ s.status.faultCode = code ∧ s.status.faultOpcode = op ∧ s.status.faultPc = pc

/-- `t` is `s` after the fault (R226, R221): the record latched, every other part as it was. -/
def TakesFault (code : FaultCode) (op : Word) (pc : Addr) (s t : State) : Prop :=
  t.FaultedWith code op pc ∧ OnlyChanges Part.status s t

/-- The instruction completed: the PC is `target`, the core is Running. -/
def State.CompletedAt (t : State) (target : Addr) : Prop :=
  t.pc = target ∧ t.status.state = .running

/-! ## The invariant -/

/-- What the status register may hold, beside the rest of the state (10_state.md R36; 60_exceptions.md R221, R226, R227): a
record exactly when Faulted, of the word and PC that R221's table names; the PC and SP are still those of the faulting
step, since no step runs afterwards. -/
def State.StatusLegal (s : State) : Prop :=
  match s.status.faultCode with
  | .noFault => s.status.state ≠ .faulted ∧ s.status.faultOpcode = 0 ∧ s.status.faultPc = 0
  | .unknownOpcode => s.status.state = .faulted ∧ s.status.faultPc = s.pc ∧
      ((∃ why, decodeWord s.status.faultOpcode = .unknown why) ∨
        (s.params.sysPolicy = .fault ∧ ∃ nnn, decodeWord s.status.faultOpcode = .ins (.sys nnn)))
  | .stackOverflow => s.status.state = .faulted ∧ s.status.faultPc = s.pc ∧ s.sp.val = 16 ∧
      ∃ nnn, decodeWord s.status.faultOpcode = .ins (.call nnn)
  | .stackUnderflow => s.status.state = .faulted ∧ s.status.faultPc = s.pc ∧ s.sp.val = 0 ∧
      s.status.faultOpcode = 0x00EE
  | .invalidLoad => s.status.state = .faulted ∧ s.status.faultOpcode = 0 ∧ s.status.faultPc = 0

/-- The invariant of the machine: memory is in canonical form and inside the 4096 bytes, every stack entry is a 12-bit
address (10_state.md R29), the status register is legal. -/
structure State.Inv (s : State) : Prop where
  memory : s.mem.wf = true
  stackEntries : ∀ j : Fin 16, (s.stackAt j).toNat ≤ 0xFFF
  status : s.StatusLegal

/-! ## Runs -/

/-- The CPU Core steps next: no operation of another agent stands before it in the total order. -/
def State.CoreNext (s : State) : Prop := s.agenda = []

/-- The end of a run that the machine itself shows (70_reset_and_hazards.md R274): (a) Faulted, or (b) the word at PC is
`1nnn` with nnn = PC. (c), the host stops, is the end of the list of steps taken. -/
def State.RunEnded (s : State) : Prop :=
  s.status.state = .faulted ∨ decodeWord s.fetch = .ins (.jp s.pc)

/-- `k` ticks, one after the other. -/
def State.ticks (s : State) : Nat → State
  | 0 => s
  | k + 1 => (s.ticks k).tick

/-- What the block instructions do to I (R172, R173): unchanged, or `wrapI(I + x + 1)` when `P_LDST_INCREMENTS_I`. -/
def IndexAfterBlock (s : State) (x : Nibble) (t : State) : Prop :=
  (s.params.ldstIncrementsI = false → t.i = s.i) ∧
  (s.params.ldstIncrementsI = true → s.params.addIWrap = .bits16 → t.i.toNat = (s.i.toNat + x.toNat + 1) % 0x10000) ∧
  (s.params.ldstIncrementsI = true → s.params.addIWrap = .bits12 → t.i.toNat = (s.i.toNat + x.toNat + 1) % 0x1000)

/-- The bit of the sprite at I of `n` rows, drawn from (cx, cy), that falls on the pixel (px, py): its column and row are
the distances from (cx, cy) modulo 64 and 32 (45_draw.md R181). -/
def State.spriteBitAt (s : State) (cx cy n : Nat) (px : Fin 64) (py : Fin 32) : Bool :=
  let col := (px.val + 64 - cx % 64) % 64
  let row := (py.val + 32 - cy % 32) % 32
  decide (row < n) && decide (col < 8) && (s.memRead (s.atI row)).getLsbD (7 - col)

end Sys2Proof.Machine
end

