-- ==== Sys2Proof/Certificates/Slice0/Obligations.lean ====
section
/-! DEFINITION. The statements for the provers, from the numbered rules of spec/. A statement about an instruction ends in the
next state that `exec` answers, with the values the rule gives and the frame (`OnlyChanges`); `writes l` allows the PC,
`status.state` and the parts listed. None fixes a configuration parameter unless it says so in a hypothesis. -/

open Sys2Proof Sys2Proof.Machine

/-! ## Decoding and encoding (30_encoding.md) -/

/-- Every well-formed instruction decodes from its own word and its own two bytes, whatever bytes follow (R80, R84, R85; the
encoder is the model's).
The patterns are general knowledge of the spec's (93_implementation_defined.md G1, notes/assumptions/10.md). -/
def Obligations.DecodeEncodeRoundTrip : Prop :=
  ∀ i : Instr, i.WellFormed →
    decodeWord (encode i) = .ins i ∧ ∀ rest, decodeBytes (encodeBytes i ++ rest) = (.ins i, rest)

/-- A word that decodes is the encoding of the instruction it decodes to, so it has that one meaning and no bit of it is
ignored (R84, R86).
Strict decoding is decision D8 (the spec's own, notes/assumptions/10.md). -/
def Obligations.EncodeDecodeRoundTrip : Prop :=
  ∀ (op : Word) (i : Instr), decodeWord op = .ins i → i.WellFormed ∧ encode i = op

/-- The words that decode to no instruction are those of R86's table.
Decision D8 (the spec's own, notes/assumptions/10.md). -/
def Obligations.IllegalWordsAreTheFiveGroups : Prop :=
  ∀ op : Word, (∃ why, decodeWord op = .unknown why) ↔
    (op.toNat / 0x1000 = 0x5 ∧ op.toNat % 0x10 ≠ 0) ∨
    (op.toNat / 0x1000 = 0x8 ∧ op.toNat % 0x10 ∈ [0x8, 0x9, 0xA, 0xB, 0xC, 0xD, 0xF]) ∨
    (op.toNat / 0x1000 = 0x9 ∧ op.toNat % 0x10 ≠ 0) ∨
    (op.toNat / 0x1000 = 0xE ∧ op.toNat % 0x100 ∉ [0x9E, 0xA1]) ∨
    (op.toNat / 0x1000 = 0xF ∧ op.toNat % 0x100 ∉ [0x07, 0x0A, 0x15, 0x18, 0x1E, 0x29, 0x33, 0x55, 0x65])

/-- Decoding agrees with the opcode map (R85): a word is unknown exactly when no row matches it; the row of the decoded
instruction matches; no word but 0x00E0 and 0x00EE matches two rows, and there CLS and RET take precedence over SYS.
Decision D8 and G1 (the spec's own, notes/assumptions/10.md). -/
def Obligations.DecodeFollowsTheOpcodeMap : Prop :=
  (∀ op : Word, (∃ why, decodeWord op = .unknown why) ↔ ∀ r ∈ opcodeTable, r.matches op = false) ∧
  (∀ (op : Word) (i : Instr), decodeWord op = .ins i → i.row ∈ opcodeTable ∧ i.row.matches op = true) ∧
  (∀ (op : Word), ∀ r₁ ∈ opcodeTable, ∀ r₂ ∈ opcodeTable, r₁.matches op = true → r₂.matches op = true →
    r₁ = r₂ ∨ op = 0x00E0 ∨ op = 0x00EE) ∧
  decodeWord 0x00E0 = .ins .cls ∧ decodeWord 0x00EE = .ins .ret

/-- Words written out from the patterns of R85, one or more of each family, decode to their instructions, and words of each
illegal group of R86 to none.
G1 (the spec's own, notes/assumptions/10.md). -/
def Obligations.WrittenOutWordsDecode : Prop :=
  decodeWord 0x0123 = .ins (.sys 0x123) ∧ decodeWord 0x00E0 = .ins .cls ∧ decodeWord 0x00EE = .ins .ret ∧
  decodeWord 0x2ABC = .ins (.call 0xABC) ∧ decodeWord 0x3A42 = .ins (.seImm 0xA 0x42) ∧
  decodeWord 0x9120 = .ins (.sneReg 1 2) ∧ decodeWord 0x8A5E = .ins (.shl 0xA 5) ∧
  decodeWord 0xC10F = .ins (.rnd 1 0x0F) ∧ decodeWord 0xA2F0 = .ins (.ldI 0x2F0) ∧
  decodeWord 0xD12F = .ins (.drw 1 2 0xF) ∧ decodeWord 0xE5A1 = .ins (.sknp 5) ∧
  decodeWord 0xF415 = .ins (.ldDT 4) ∧ decodeWord 0xF233 = .ins (.ldB 2) ∧
  decodeWord 0x5121 = .unknown .group5 ∧ decodeWord 0x8128 = .unknown .group8 ∧ decodeWord 0x9121 = .unknown .group9 ∧
  decodeWord 0xE19F = .unknown .groupE ∧ decodeWord 0xF130 = .unknown .groupF

/-! ## The step (40_step.md, 60_exceptions.md) -/

/-- When the core steps and is not Faulted, and the bytes at PC and PC + 1 decode to an instruction, the step is that
instruction's execution, and nothing is added around it (R100, R101).
The level of the step is decision D1 (the spec's own, notes/assumptions/10.md). -/
def Obligations.StepRunsTheDecodedInstruction : Prop :=
  ∀ (s : State) (i : Instr), s.CoreNext → s.status.state ≠ .faulted →
    decodeBytes [s.byteAt s.pc, s.byteAt (s.pc + 1)] = (.ins i, []) → step s = exec i s

/-- A word that decodes to none raises UnknownOpcode with that word and its PC, and writes nothing else (R222).
What a fault latches, that it writes nothing else and its code are decisions D5 and D6 (R226, R221; the spec's own,
notes/assumptions/10.md); that it is a next state is the model's form (notes/assumptions/7.md). -/
def Obligations.IllegalWordRaisesUnknownOpcode : Prop :=
  ∀ (s : State) (why : Reject), s.CoreNext → s.status.state ≠ .faulted →
    decodeWord (wordOfBytes (s.byteAt s.pc) (s.byteAt (s.pc + 1))) = .unknown why →
    ∃ t, step s = .next t ∧ TakesFault .unknownOpcode (wordOfBytes (s.byteAt s.pc) (s.byteAt (s.pc + 1))) s.pc s t

/-- A step on a Faulted core changes nothing and emits no trace; of all operations only reset leaves Faulted (R104).
Decision D5 (the spec's own, notes/assumptions/10.md). -/
def Obligations.FaultedCoreStaysUntilReset : Prop :=
  ∀ s : State, s.status.state = .faulted →
    s.cpuStep = .next s ∧ s.trace = none ∧ (s.CoreNext → step s = .next s) ∧
    (∀ op t, op ≠ Op.reset → s.perform op = .next t → t.status.state = .faulted) ∧
    (∃ t, s.perform .reset = .next t ∧ t.status.state = .running)

/-- THE INVARIANT IS KEPT by every step of the machine, whatever operation comes next and whatever instruction runs: memory
stays canonical and inside the 4096 bytes, stack entries stay 12-bit addresses, the status register stays a legal one.
The canonical list of cells is the model's own form of memory (notes/assumptions/2.md). The stack clause rests on decisions
D2, D3 and D36 (R29), the status clause on D3, D5, D6, D7, D8, D27 and D38 (R36, R221, R226; the spec's own, notes/assumptions/10.md);
that a fault is a next state and its opcode the instruction's encoding are notes/assumptions/7.md, 9.md; that a rejected load
on a Faulted core overwrites the record is notes/assumptions/8.md. -/
def Obligations.StepKeepsTheInvariant : Prop :=
  ∀ s t : State, s.Inv → step s = .next t → t.Inv

/-- The invariant holds at reset. A claim about `State.reset` alone: its memory, with no cell listed, is the model's choice
(notes/assumptions/2.md); its status register is decision D38, its SP D3 (the spec's own, notes/assumptions/10.md). -/
def Obligations.ResetMeetsTheInvariant : Prop :=
  State.reset.Inv

/-- Every step of the machine answers a next state: no instruction, no illegal word and no operation stops it (R16, R84,
R226; that a fault of the spec is a next state is the model's form, notes/assumptions/7.md). -/
def Obligations.StepAlwaysAnswersNext : Prop :=
  ∀ s : State, ∃ t, step s = .next t

/-- Faults are precise (R226): a step that ends Faulted on a core that was not has written the status register only, with the
fetched word, its PC and the code of R221's condition; a load that is too long likewise, with 0 and 0.
Decisions D3, D5, D6, D7, D8, D27 (the spec's own, notes/assumptions/10.md). That the load's record overwrites an earlier one on a
core already Faulted is the model's reading (notes/assumptions/8.md). -/
def Obligations.FaultsArePrecise : Prop :=
  (∀ s t : State, s.status.state ≠ .faulted → s.cpuStep = .next t → t.status.state = .faulted →
    ∃ code, TakesFault code s.fetch s.pc s t ∧
      ((code = .unknownOpcode ∧ ((∃ why, decodeWord s.fetch = .unknown why) ∨
          (s.params.sysPolicy = .fault ∧ ∃ nnn, decodeWord s.fetch = .ins (.sys nnn)))) ∨
        (code = .stackOverflow ∧ s.sp.val = 16 ∧ ∃ nnn, decodeWord s.fetch = .ins (.call nnn)) ∨
        (code = .stackUnderflow ∧ s.sp.val = 0 ∧ s.fetch = 0x00EE))) ∧
  (∀ (s : State) (image : List Byte), 0xE00 < image.length → TakesFault .invalidLoad 0 0 s (s.load image))

/-- Only LD Vx, K holds (R16), only while no key is down, and a hold changes nothing but `status.state` (R192).
Decision D17 (the spec's own, notes/assumptions/10.md). -/
def Obligations.OnlyLdKeyHolds : Prop :=
  ∀ s t : State, s.cpuStep = .next t → t.status.state = .waitingForKey →
    (∃ x, decodeWord s.fetch = .ins (.ldKey x)) ∧ (∀ k, s.keyDown k = false) ∧ OnlyChanges (· = .coreState) s t

/-- A step on a core in WaitingForKey is an ordinary step (R105): it does what the same core would do if it were Running. -/
def Obligations.WaitingStepIsOrdinary : Prop :=
  ∀ s : State, s.status.state = .waitingForKey →
    s.cpuStep = State.cpuStep { s with status := { s.status with state := .running } }

/-- The operations of the agenda happen one a step, in order, before the core's step (R249; the agenda is the model's,
notes/assumptions/6.md). -/
def Obligations.AgendaRunsInOrder : Prop :=
  ∀ (s : State) (op : Op) (rest : List Op), s.agenda = op :: rest → step s = State.perform { s with agenda := rest } op

/-- A run that has ended stays ended (R274 (a), (b)): a Faulted core, and a jump to itself, whose further steps change
nothing but a WaitingForKey left behind.
Decision D43 (the spec's own, notes/assumptions/10.md). -/
def Obligations.EndedRunStaysEnded : Prop :=
  ∀ s : State, s.CoreNext → s.RunEnded →
    ∃ t, step s = .next t ∧ t.RunEnded ∧ t.CoreNext ∧ OnlyChanges (· = .coreState) s t

/-! ## Who writes what: rules about all instructions -/

/-- DT and ST change only by tick, Fx15, Fx18 and reset; the tick depends on nothing but DT and ST and changes nothing
else (R232).
Decision D32 (the spec's own, notes/assumptions/10.md). -/
def Obligations.TimersChangeOnlyByTheirWriters : Prop :=
  (∀ (i : Instr) (s t : State), exec i s = .next t →
    (t.dt ≠ s.dt → ∃ x, i = .ldDT x) ∧ (t.st ≠ s.st → ∃ x, i = .ldST x)) ∧
  (∀ (op : Op) (s t : State), s.perform op = .next t → op ≠ .step → op ≠ .tick → op ≠ .reset →
    t.dt = s.dt ∧ t.st = s.st) ∧
  (∀ s u : State, s.dt = u.dt → s.st = u.st → s.tick.dt = u.tick.dt ∧ s.tick.st = u.tick.st) ∧
  (∀ s : State, OnlyChanges (fun p => p = .dt ∨ p = .st) s s.tick)

/-- VF changes only in the instructions R35 names as flag writers and in those that name VF as their destination. -/
def Obligations.WritersOfVF : Prop :=
  ∀ (i : Instr) (s t : State), exec i s = .next t → t.getV vF ≠ s.getV vF →
    (∃ x y, i = .addReg x y ∨ i = .subReg x y ∨ i = .subnReg x y ∨ i = .shr x y ∨ i = .shl x y) ∨
    (∃ x y n, i = .drw x y n) ∨
    (s.params.logicResetsVF = true ∧ ∃ x y, i = .orReg x y ∨ i = .andReg x y ∨ i = .xorReg x y) ∨
    (∃ y, i = .ldReg vF y ∨ i = .orReg vF y ∨ i = .andReg vF y ∨ i = .xorReg vF y) ∨
    (∃ kk, i = .ldImm vF kk ∨ i = .addImm vF kk ∨ i = .rnd vF kk) ∨
    i = .ldVxDT vF ∨ i = .ldKey vF ∨ i = .ldRegs vF

/-- No instruction writes a stack entry except CALL, and none moves SP except CALL and RET (R28). -/
def Obligations.StackWrittenOnlyByCallAndRet : Prop :=
  ∀ (i : Instr) (s t : State), exec i s = .next t →
    ((∃ j, t.stackAt j ≠ s.stackAt j) → ∃ nnn, i = .call nnn) ∧
    (t.sp ≠ s.sp → (∃ nnn, i = .call nnn) ∨ i = .ret)

/-- A byte of memory changes only by LD B, Vx, by LD [I], Vx, by load and by reset (R51). -/
def Obligations.MemoryWriters : Prop :=
  (∀ (i : Instr) (s t : State), exec i s = .next t → (∃ a, t.byteAt a ≠ s.byteAt a) →
    ∃ x, i = .ldB x ∨ i = .stRegs x) ∧
  (∀ (op : Op) (s t : State), s.perform op = .next t → (∃ a, t.byteAt a ≠ s.byteAt a) →
    op = .step ∨ op = .reset ∨ ∃ image, op = .load image)

/-- The display is written only by CLS, DRW and reset, the keypad only by the host (R235). -/
def Obligations.DisplayAndKeypadWriters : Prop :=
  ∀ (op : Op) (s t : State), s.perform op = .next t →
    ((∃ px py, t.disp.get px py ≠ s.disp.get px py) →
      op = .reset ∨ (op = .step ∧ (decodeWord s.fetch = .ins .cls ∨ ∃ x y n, decodeWord s.fetch = .ins (.drw x y n)))) ∧
    ((∃ k, t.keyDown k ≠ s.keyDown k) → ∃ k down, op = .keySet k down)

/-- No step of the machine changes the configuration parameters (R38: they are no state; that State carries them is the
model's form, notes/assumptions/1.md). -/
def Obligations.ParametersNeverChange : Prop :=
  ∀ s t : State, step s = .next t → t.params = s.params

/-- ST reaches nothing a program can see: two cores that differ in ST alone still do after a step of each (30_encoding.md R88:
"The value of ST leaves the core only on the `sound_on` output and by inspection"). -/
def Obligations.SoundTimerReachesNothingElse : Prop :=
  ∀ (s t u : State) (b : Byte), s.cpuStep = .next t → (s.setST b).cpuStep = .next u → OnlyChanges (· = .st) t u

/-! ## Control flow (41_control_flow.md) -/

/-- R110, both policies; the word recorded is 0nnn.
Decision D7; what the fault latches and that it writes nothing else are D5 and D6 (the spec's own, notes/assumptions/10.md);
that it is a next state, and the word recorded, are the model's form (notes/assumptions/7.md, 9.md). -/
def Obligations.SysFollowsThePolicy : Prop :=
  ∀ (s : State) (nnn : Addr),
    (s.params.sysPolicy = .fault →
      ∃ t, exec (.sys nnn) s = .next t ∧ TakesFault .unknownOpcode (nnn.setWidth 16) s.pc s t) ∧
    (s.params.sysPolicy = .ignore →
      ∃ t, exec (.sys nnn) s = .next t ∧ t.CompletedAt (s.pc + 2) ∧ OnlyChanges (writes []) s t)

/-- R111: every pixel 0, VF and all else unchanged. -/
def Obligations.ClsClearsTheDisplay : Prop :=
  ∀ s : State, ∃ t, exec .cls s = .next t ∧ t.CompletedAt (s.pc + 2) ∧ (∀ px py, t.disp.get px py = false) ∧
    OnlyChanges (fun p => writes [] p ∨ ∃ px py, p = .pixel px py) s t

/-- R112: the PC is the popped entry, which stays in place, and SP goes down by one; StackUnderflow when SP = 0.
SP as a count is decision D3; what the fault latches and that it writes nothing else are D5 and D6 (the spec's own,
notes/assumptions/10.md); that a fault is a next state is the model's form (notes/assumptions/7.md). -/
def Obligations.RetPopsOrUnderflows : Prop :=
  ∀ s : State,
    (s.sp.val = 0 → ∃ t, exec .ret s = .next t ∧ TakesFault .stackUnderflow 0x00EE s.pc s t) ∧
    (∀ j : Fin 16, s.sp.val = j.val + 1 →
      ∃ t, exec .ret s = .next t ∧ t.CompletedAt ((s.stackAt j).setWidth 12) ∧ t.sp.val = j.val ∧
        OnlyChanges (writes [.sp]) s t)

/-- R113. -/
def Obligations.JpSetsThePC : Prop :=
  ∀ (s : State) (nnn : Addr), ∃ t, exec (.jp nnn) s = .next t ∧ t.CompletedAt nnn ∧ OnlyChanges (writes []) s t

/-- R114: `stack[SP] <- zext_16(pc + 2)`, SP up by one, PC = nnn; StackOverflow with the word 2nnn when SP = 16.
What is pushed is decision D4, SP as a count D3, what the fault latches and that it writes nothing else D5 and D6 (the spec's
own, notes/assumptions/10.md); that it is a next state, and the word recorded, are the model's form
(notes/assumptions/7.md, 9.md). -/
def Obligations.CallPushesOrOverflows : Prop :=
  ∀ (s : State) (nnn : Addr),
    (s.sp.val = 16 → ∃ t, exec (.call nnn) s = .next t ∧ TakesFault .stackOverflow (0x2000 + nnn.setWidth 16) s.pc s t) ∧
    (∀ j : Fin 16, s.sp.val = j.val →
      ∃ t, exec (.call nnn) s = .next t ∧ t.CompletedAt nnn ∧ t.sp.val = j.val + 1 ∧
        (t.stackAt j).toNat = (s.pc.toNat + 2) % 0x1000 ∧ OnlyChanges (writes [.sp, .stack j]) s t)

/-- CALL followed by RET returns to the instruction after the CALL and leaves the depth unchanged (90_conflicts.md C1).
Decisions D3 and D4 (the spec's own, notes/assumptions/10.md). -/
def Obligations.CallThenRetReturns : Prop :=
  ∀ (s : State) (nnn : Addr) (j : Fin 16), s.sp.val = j.val →
    ∃ t u, exec (.call nnn) s = .next t ∧ exec .ret t = .next u ∧ u.CompletedAt (s.pc + 2) ∧ u.sp = s.sp ∧
      OnlyChanges (writes [.stack j]) s u

/-- R115, both settings of `P_JUMP_OFFSET_REG`; the sum is modulo 0x1000.
Decision D11 (the spec's own, notes/assumptions/10.md). -/
def Obligations.JpV0AddsItsRegister : Prop :=
  ∀ (s : State) (nnn : Addr), ∃ t, exec (.jpV0 nnn) s = .next t ∧ t.status.state = .running ∧
    t.pc.toNat = (nnn.toNat + (match s.params.jumpOffsetReg with
      | .v0 => s.getV 0
      | .vx => s.getV (BitVec.ofNat 4 (nnn.toNat / 0x100))).toNat) % 0x1000 ∧
    OnlyChanges (writes []) s t

/-! ## Skips (42_skip.md) -/

/-- R130, R131. -/
def Obligations.SkipOnImmediate : Prop :=
  ∀ (s : State) (x : Nibble) (kk : Byte),
    (∃ t, exec (.seImm x kk) s = .next t ∧ t.CompletedAt (if s.getV x = kk then s.pc + 4 else s.pc + 2) ∧
      OnlyChanges (writes []) s t) ∧
    (∃ t, exec (.sneImm x kk) s = .next t ∧ t.CompletedAt (if s.getV x ≠ kk then s.pc + 4 else s.pc + 2) ∧
      OnlyChanges (writes []) s t)

/-- R132, R133. -/
def Obligations.SkipOnRegister : Prop :=
  ∀ (s : State) (x y : Nibble),
    (∃ t, exec (.seReg x y) s = .next t ∧ t.CompletedAt (if s.getV x = s.getV y then s.pc + 4 else s.pc + 2) ∧
      OnlyChanges (writes []) s t) ∧
    (∃ t, exec (.sneReg x y) s = .next t ∧ t.CompletedAt (if s.getV x ≠ s.getV y then s.pc + 4 else s.pc + 2) ∧
      OnlyChanges (writes []) s t)

/-! ## Load and arithmetic (43_load_arith.md) -/

/-- R140, R142. -/
def Obligations.LoadRegister : Prop :=
  ∀ (s : State) (x y : Nibble) (kk : Byte),
    (∃ t, exec (.ldImm x kk) s = .next t ∧ t.CompletedAt (s.pc + 2) ∧ t.getV x = kk ∧ OnlyChanges (writes [.v x]) s t) ∧
    (∃ t, exec (.ldReg x y) s = .next t ∧ t.CompletedAt (s.pc + 2) ∧ t.getV x = s.getV y ∧ OnlyChanges (writes [.v x]) s t)

/-- R141: the sum modulo 256; no flag (VF is unchanged unless x names it).
90_conflicts.md C5 and G4 (the spec's own, notes/assumptions/10.md). -/
def Obligations.AddImmediateWritesNoFlag : Prop :=
  ∀ (s : State) (x : Nibble) (kk : Byte),
    ∃ t, exec (.addImm x kk) s = .next t ∧ t.CompletedAt (s.pc + 2) ∧
      (t.getV x).toNat = ((s.getV x).toNat + kk.toNat) % 256 ∧ OnlyChanges (writes [.v x]) s t

/-- R143, R144, R145, bit by bit; VF becomes 0 only when `P_LOGIC_RESETS_VF`, and then also when x names it.
Decision D14 (the spec's own, notes/assumptions/10.md). -/
def Obligations.LogicOperations : Prop :=
  ∀ (s : State) (x y : Nibble) (i : Instr) (f : Bool → Bool → Bool),
    (i = .orReg x y ∧ f = or) ∨ (i = .andReg x y ∧ f = and) ∨ (i = .xorReg x y ∧ f = xor) →
    ∃ t, exec i s = .next t ∧ t.CompletedAt (s.pc + 2) ∧
      (x ≠ vF ∨ s.params.logicResetsVF = false →
        ∀ k : Fin 8, (t.getV x).getLsbD k.val = f ((s.getV x).getLsbD k.val) ((s.getV y).getLsbD k.val)) ∧
      (s.params.logicResetsVF = true → t.getV vF = 0) ∧
      OnlyChanges (writes (if s.params.logicResetsVF then [.v x, .v vF] else [.v x])) s t

/-- R146: the sum modulo 256 and the carry, VF last. -/
def Obligations.AddSetsCarry : Prop :=
  ∀ (s : State) (x y : Nibble),
    ∃ t, exec (.addReg x y) s = .next t ∧ t.CompletedAt (s.pc + 2) ∧
      (x ≠ vF → (t.getV x).toNat = ((s.getV x).toNat + (s.getV y).toNat) % 256) ∧
      t.getV vF = (if (s.getV x).toNat + (s.getV y).toNat > 255 then 1 else 0) ∧
      OnlyChanges (writes [.v x, .v vF]) s t

/-- R147, R149: the difference modulo 256 and 1 for no borrow, VF last.
The polarity of VF is decision D9 (the spec's own, notes/assumptions/10.md). -/
def Obligations.SubtractSetsNoBorrow : Prop :=
  ∀ (s : State) (x y : Nibble) (i : Instr) (minuend subtrahend : Byte),
    (i = .subReg x y ∧ minuend = s.getV x ∧ subtrahend = s.getV y) ∨
    (i = .subnReg x y ∧ minuend = s.getV y ∧ subtrahend = s.getV x) →
    ∃ t, exec i s = .next t ∧ t.CompletedAt (s.pc + 2) ∧
      (x ≠ vF → (t.getV x).toNat = (256 + minuend.toNat - subtrahend.toNat) % 256) ∧
      t.getV vF = (if minuend.toNat ≥ subtrahend.toNat then 1 else 0) ∧
      OnlyChanges (writes [.v x, .v vF]) s t

/-- R148: half the operand `P_SHIFT_SOURCE` chooses, and its bit 0 in VF, last.
Decision D10 (the spec's own, notes/assumptions/10.md). -/
def Obligations.ShiftRightSetsBitZero : Prop :=
  ∀ (s : State) (x y : Nibble) (a : Byte),
    (s.params.shiftSource = .vx ∧ a = s.getV x) ∨ (s.params.shiftSource = .vy ∧ a = s.getV y) →
    ∃ t, exec (.shr x y) s = .next t ∧ t.CompletedAt (s.pc + 2) ∧
      (x ≠ vF → (t.getV x).toNat = a.toNat / 2) ∧
      (t.getV vF).toNat = a.toNat % 2 ∧
      OnlyChanges (writes [.v x, .v vF]) s t

/-- R150: twice the operand modulo 256, and its bit 7 in VF, last.
Decision D10 (the spec's own, notes/assumptions/10.md). -/
def Obligations.ShiftLeftSetsBitSeven : Prop :=
  ∀ (s : State) (x y : Nibble) (a : Byte),
    (s.params.shiftSource = .vx ∧ a = s.getV x) ∨ (s.params.shiftSource = .vy ∧ a = s.getV y) →
    ∃ t, exec (.shl x y) s = .next t ∧ t.CompletedAt (s.pc + 2) ∧
      (x ≠ vF → (t.getV x).toNat = a.toNat * 2 % 256) ∧
      (t.getV vF).toNat = a.toNat / 128 ∧
      OnlyChanges (writes [.v x, .v vF]) s t

/-- R151, R245: Vx is the byte drawn AND kk; the byte is the oldest one supplied, which is used up, or, when none is, the
free value of this draw, whatever it is; the next draw is another one (the queue and the count are the model's,
notes/assumptions/5.md).
Decision D18 and G7 (the spec's own, notes/assumptions/10.md). -/
def Obligations.RndDrawsAByte : Prop :=
  ∀ (s : State) (x : Nibble) (kk : Byte),
    (∀ b rest, s.rndIn = b :: rest →
      ∃ t, exec (.rnd x kk) s = .next t ∧ t.CompletedAt (s.pc + 2) ∧ t.getV x = b &&& kk ∧ t.rndIn = rest ∧
        t.rndDraws = s.rndDraws + 1 ∧ OnlyChanges (writes [.v x, .rndIn, .rndDraws]) s t) ∧
    (s.rndIn = [] →
      ∃ t, exec (.rnd x kk) s = .next t ∧ t.CompletedAt (s.pc + 2) ∧ t.getV x = Config.rndByte s.rndDraws &&& kk ∧
        t.rndIn = [] ∧ t.rndDraws = s.rndDraws + 1 ∧ OnlyChanges (writes [.v x, .rndIn, .rndDraws]) s t)

/-! ## Index register and memory block (44_memory_index.md) -/

/-- R170. -/
def Obligations.LoadIndex : Prop :=
  ∀ (s : State) (nnn : Addr),
    ∃ t, exec (.ldI nnn) s = .next t ∧ t.CompletedAt (s.pc + 2) ∧ t.i.toNat = nnn.toNat ∧ OnlyChanges (writes [.i]) s t

/-- R171: the sum modulo 0x10000 or 0x1000 by `P_ADD_I_WRAP`; no flag.
Decision D12 (the spec's own, notes/assumptions/10.md). -/
def Obligations.AddIndexWraps : Prop :=
  ∀ (s : State) (x : Nibble),
    ∃ t, exec (.addI x) s = .next t ∧ t.CompletedAt (s.pc + 2) ∧
      (s.params.addIWrap = .bits16 → t.i.toNat = (s.i.toNat + (s.getV x).toNat) % 0x10000) ∧
      (s.params.addIWrap = .bits12 → t.i.toNat = (s.i.toNat + (s.getV x).toNat) % 0x1000) ∧
      OnlyChanges (writes [.i]) s t

/-- R172: V0 to Vx stand at I, I+1, ..., I+x, each address masked to 12 bits (20_memory.md R52); no other byte changes.
What I becomes is decision D13 (the spec's own, notes/assumptions/10.md). -/
def Obligations.StoreRegisters : Prop :=
  ∀ (s : State) (x : Nibble), s.mem.wf = true →
    ∃ t, exec (.stRegs x) s = .next t ∧ t.CompletedAt (s.pc + 2) ∧
      (∀ k : Nibble, k ≤ x → t.byteAt (maskAddr (s.atI k.toNat)) = s.getV k) ∧
      IndexAfterBlock s x t ∧
      OnlyChanges (fun p => writes [.i] p ∨ ∃ k : Nibble, k ≤ x ∧ p = .mem (maskAddr (s.atI k.toNat))) s t

/-- R173: V0 to Vx are the bytes at I, I+1, ..., I+x, each address masked to 12 bits (20_memory.md R52).
What I becomes is decision D13 (the spec's own, notes/assumptions/10.md). -/
def Obligations.LoadRegisters : Prop :=
  ∀ (s : State) (x : Nibble),
    ∃ t, exec (.ldRegs x) s = .next t ∧ t.CompletedAt (s.pc + 2) ∧
      (∀ k : Nibble, k ≤ x → t.getV k = s.byteAt (BitVec.ofNat 12 ((s.i.toNat + k.toNat) % 0x1000))) ∧
      IndexAfterBlock s x t ∧
      OnlyChanges (fun p => writes [.i] p ∨ ∃ k : Nibble, k ≤ x ∧ p = .v k) s t

/-! ## Drawing (45_draw.md) -/

/-- THE LOOP OF DRW IS ITS CLOSED FORM (R181): every pixel is inverted exactly when the bit of the sprite that falls on it
(`State.spriteBitAt`, by distances modulo 64 and 32) is set; VF is 1 exactly when some pixel went from set to unset.
The bit order is decision D22 (the spec's own, notes/assumptions/10.md). -/
def Obligations.DrwDrawsTheSprite : Prop :=
  ∀ (s : State) (x y n : Nibble),
    ∃ t, exec (.drw x y n) s = .next t ∧ t.CompletedAt (s.pc + 2) ∧
      (∀ px py, t.disp.get px py = (s.disp.get px py ^^ s.spriteBitAt (s.getV x).toNat (s.getV y).toNat n.toNat px py)) ∧
      ((∃ px py, s.disp.get px py = true ∧ t.disp.get px py = false) → t.getV vF = 1) ∧
      ((¬∃ px py, s.disp.get px py = true ∧ t.disp.get px py = false) → t.getV vF = 0) ∧
      OnlyChanges (fun p => writes [.v vF] p ∨ ∃ px py, p = .pixel px py) s t

/-- DRW twice with the same operands gives the first display back; from a clear display the second call reports a collision
when the sprite has a set bit (R181's last property).
Rests on decision D22 as DRW does (the spec's own, notes/assumptions/10.md). -/
def Obligations.DrwTwiceErases : Prop :=
  ∀ (s : State) (x y n : Nibble), x ≠ vF → y ≠ vF →
    ∃ t u, exec (.drw x y n) s = .next t ∧ exec (.drw x y n) t = .next u ∧
      (∀ px py, u.disp.get px py = s.disp.get px py) ∧
      ((∀ px py, s.disp.get px py = false) →
        (∃ px py, s.spriteBitAt (s.getV x).toNat (s.getV y).toNat n.toNat px py = true) → u.getV vF = 1)

/-! ## Keypad (46_input.md) -/

/-- R190, R191: the key is the low nibble of Vx.
Decision D15 (the spec's own, notes/assumptions/10.md). -/
def Obligations.SkipOnKey : Prop :=
  ∀ (s : State) (x k : Nibble), k.toNat = (s.getV x).toNat % 16 →
    (∃ t, exec (.skp x) s = .next t ∧ t.CompletedAt (if s.keyDown k = true then s.pc + 4 else s.pc + 2) ∧
      OnlyChanges (writes []) s t) ∧
    (∃ t, exec (.sknp x) s = .next t ∧ t.CompletedAt (if s.keyDown k = true then s.pc + 2 else s.pc + 4) ∧
      OnlyChanges (writes []) s t)

/-- R192: the lowest-numbered key that is down goes into Vx; while none is, the step holds, and nothing but `status.state`
changes.
Decision D17 (the spec's own, notes/assumptions/10.md). -/
def Obligations.LdKeyTakesTheLowestKeyOrHolds : Prop :=
  ∀ (s : State) (x : Nibble),
    (∀ k : Nibble, s.keyDown k = true → (∀ j : Nibble, j < k → s.keyDown j = false) →
      ∃ t, exec (.ldKey x) s = .next t ∧ t.CompletedAt (s.pc + 2) ∧ (t.getV x).toNat = k.toNat ∧
        OnlyChanges (writes [.v x]) s t) ∧
    ((∀ k : Nibble, s.keyDown k = false) →
      ∃ t, exec (.ldKey x) s = .next t ∧ t.status.state = .waitingForKey ∧ OnlyChanges (· = .coreState) s t)

/-! ## Timers, BCD, font (47_timers.md, 48_bcd_font.md) -/

/-- R200, R201, R202. -/
def Obligations.TimerInstructions : Prop :=
  ∀ (s : State) (x : Nibble),
    (∃ t, exec (.ldVxDT x) s = .next t ∧ t.CompletedAt (s.pc + 2) ∧ t.getV x = s.dt ∧ OnlyChanges (writes [.v x]) s t) ∧
    (∃ t, exec (.ldDT x) s = .next t ∧ t.CompletedAt (s.pc + 2) ∧ t.dt = s.getV x ∧ OnlyChanges (writes [.dt]) s t) ∧
    (∃ t, exec (.ldST x) s = .next t ∧ t.CompletedAt (s.pc + 2) ∧ t.st = s.getV x ∧
      (t.soundOn = true ↔ s.getV x ≠ 0) ∧ OnlyChanges (writes [.st]) s t)

/-- R210.
Decision D16 (the spec's own, notes/assumptions/10.md). -/
def Obligations.LoadFontAddress : Prop :=
  ∀ (s : State) (x : Nibble),
    ∃ t, exec (.ldF x) s = .next t ∧ t.CompletedAt (s.pc + 2) ∧ t.i.toNat = (s.getV x).toNat % 16 * 5 ∧
      OnlyChanges (writes [.i]) s t

/-- R211: the hundreds, tens and ones digits at I, I+1, I+2, each address masked to 12 bits; no other byte changes.
The order of the digits is decision D23 (the spec's own, notes/assumptions/10.md). -/
def Obligations.StoreBcdDigits : Prop :=
  ∀ (s : State) (x : Nibble), s.mem.wf = true →
    ∃ t, exec (.ldB x) s = .next t ∧ t.CompletedAt (s.pc + 2) ∧
      (t.byteAt (maskAddr (s.atI 0))).toNat = (s.getV x).toNat / 100 ∧
      (t.byteAt (maskAddr (s.atI 1))).toNat = (s.getV x).toNat / 10 % 10 ∧
      (t.byteAt (maskAddr (s.atI 2))).toNat = (s.getV x).toNat % 10 ∧
      OnlyChanges (writes [.mem (maskAddr (s.atI 0)), .mem (maskAddr (s.atI 1)), .mem (maskAddr (s.atI 2))]) s t

/-! ## The Timer Unit, the host's operations, reset (60_exceptions.md, 70_reset_and_hazards.md) -/

/-- R230, and after k ticks each counter is down by k, clamped at 0; nothing else changes. -/
def Obligations.TicksCountDownToZero : Prop :=
  ∀ (s : State) (k : Nat),
    s.perform .tick = .next s.tick ∧
    (s.ticks k).dt.toNat = s.dt.toNat - k ∧ (s.ticks k).st.toNat = s.st.toNat - k ∧
    OnlyChanges (fun p => p = .dt ∨ p = .st) s (s.ticks k)

/-- R241: the image at 0x200 up and nothing else, or InvalidLoad and no byte written.
Decision D27; what the fault latches D5 and D6 (the spec's own, notes/assumptions/10.md). There is no premise on the status:
that a rejected load overwrites the record of a core already Faulted is the model's reading (notes/assumptions/8.md). -/
def Obligations.LoadWritesTheImage : Prop :=
  ∀ (s : State) (image : List Byte), s.mem.wf = true →
    ∃ t, s.perform (.load image) = .next t ∧
      (0xE00 < image.length → TakesFault .invalidLoad 0 0 s t) ∧
      (image.length ≤ 0xE00 →
        (∀ (k : Nat) (hk : k < image.length), t.byteAt (BitVec.ofNat 12 (0x200 + k)) = image[k]) ∧
        OnlyChanges (fun p => ∃ k, k < image.length ∧ p = .mem (BitVec.ofNat 12 (0x200 + k))) s t)

/-- R270, R271, from any state: every element as R39 lists it, the font from `P_FONT`, the rest of memory from `P_INIT_MEM`; the
keypad is not reset.
Decisions D20, D38, D39 (the spec's own, notes/assumptions/10.md). -/
def Obligations.ResetGivesTheResetState : Prop :=
  ∀ s : State, ∃ t, s.perform .reset = .next t ∧
    (∀ x, t.getV x = 0) ∧ t.i = 0 ∧ t.pc = 0x200 ∧ t.sp = 0 ∧ (∀ j, t.stackAt j = 0) ∧ t.dt = 0 ∧ t.st = 0 ∧
    (∀ px py, t.disp.get px py = false) ∧
    (∀ (a : Addr) (h : a.toNat < 0x50), t.byteAt a = s.params.font[a.toNat]) ∧
    (∀ a : Addr, 0x50 ≤ a.toNat → t.byteAt a = Memory.read s.params.initMem a.toNat) ∧
    t.statusOut = (0, 0, 0, 0) ∧
    (∀ k, t.keyDown k = s.keyDown k) ∧ t.params = s.params

/-- `State.reset` is what the reset operation gives under the default parameters (R39, R270; the default `P_INIT_MEM` and the
released keypad are the model's choice, notes/assumptions/2.md, 4.md). -/
def Obligations.ResetIsTheResetOperation : Prop :=
  State.reset.perform .reset = .next State.reset ∧ State.reset.params = defaultParams

/-- R243, and the supply of a random byte (R245), which waits behind those supplied before.
Decisions D28, D33, D18 (the spec's own, notes/assumptions/10.md). The queue that the byte is appended to is the model's choice
(notes/assumptions/5.md). -/
def Obligations.HostInputs : Prop :=
  ∀ (s : State) (k : Nibble) (down : Bool) (b : Byte),
    (∃ t, s.perform (.keySet k down) = .next t ∧ t.keyDown k = down ∧ OnlyChanges (· = .key k) s t) ∧
    (∃ t, s.perform (.rndSupply b) = .next t ∧ t.rndIn = s.rndIn ++ [b] ∧ OnlyChanges (· = .rndIn) s t)

/-- The outputs: `sound_on` is ST != 0 (R244), `disp_get` reduces its coordinates modulo 64 and 32 (R246), the trace of a core
that is not Faulted is the PC, the word there and its decoding (R248).
The trace is decision D26 (the spec's own, notes/assumptions/10.md). -/
def Obligations.OutputsReadTheState : Prop :=
  ∀ (s : State) (x y : Nat),
    (s.soundOn = true ↔ s.st ≠ 0) ∧
    s.dispGet x y = s.disp.get ⟨x % 64, Nat.mod_lt _ (by decide)⟩ ⟨y % 32, Nat.mod_lt _ (by decide)⟩ ∧
    (s.status.state ≠ .faulted →
      s.trace = some ⟨s.pc, wordOfBytes (s.byteAt s.pc) (s.byteAt (s.pc + 1)),
        decodeWord (wordOfBytes (s.byteAt s.pc) (s.byteAt (s.pc + 1)))⟩)

/-! ## The model's memory and interface -/

/-- The canonical form of memory: two memories in it that read the same at every address are equal data (the list is the
model's form of R50's 4096 bytes, notes/assumptions/2.md). -/
def Obligations.EqualMemoriesAreEqualData : Prop :=
  ∀ m₁ m₂ : Memory, m₁.wf = true → m₂.wf = true → (∀ a : Addr, m₁.read a.toNat = m₂.read a.toNat) → m₁ = m₂

/-- A word placed where the machine fetches is the instruction its next step runs (R53, R100; the placing is the model's,
notes/assumptions/11.md). -/
def Obligations.PlacedWordRunsNext : Prop :=
  ∀ (s : State) (nbits w : Nat) (i : Instr), s.mem.wf = true → decodeTableWord nbits w = some i →
    step (s.withFetchWord nbits w) = exec i (s.withFetchWord nbits w)
end

