-- ==== Sys2Proof/Laws/State.lean ====
section
/-! SUPPORT. One lemma a field for each update of State, true by rfl, so that no proof unfolds a record update; and what the
reads of a register, a byte, a stack entry and a key see of each update. -/

namespace Sys2Proof.Machine

variable (s : State)

/-! ### setMem -/

@[simp] theorem State.setMem_v (m : Memory) : (s.setMem m).v = s.v := rfl
@[simp] theorem State.setMem_i (m : Memory) : (s.setMem m).i = s.i := rfl
@[simp] theorem State.setMem_pc (m : Memory) : (s.setMem m).pc = s.pc := rfl
@[simp] theorem State.setMem_sp (m : Memory) : (s.setMem m).sp = s.sp := rfl
@[simp] theorem State.setMem_stack (m : Memory) : (s.setMem m).stack = s.stack := rfl
@[simp] theorem State.setMem_dt (m : Memory) : (s.setMem m).dt = s.dt := rfl
@[simp] theorem State.setMem_st (m : Memory) : (s.setMem m).st = s.st := rfl
@[simp] theorem State.setMem_mem (m : Memory) : (s.setMem m).mem = m := rfl
@[simp] theorem State.setMem_disp (m : Memory) : (s.setMem m).disp = s.disp := rfl
@[simp] theorem State.setMem_status (m : Memory) : (s.setMem m).status = s.status := rfl
@[simp] theorem State.setMem_keys (m : Memory) : (s.setMem m).keys = s.keys := rfl
@[simp] theorem State.setMem_params (m : Memory) : (s.setMem m).params = s.params := rfl
@[simp] theorem State.setMem_rndIn (m : Memory) : (s.setMem m).rndIn = s.rndIn := rfl
@[simp] theorem State.setMem_rndDraws (m : Memory) : (s.setMem m).rndDraws = s.rndDraws := rfl
@[simp] theorem State.setMem_agenda (m : Memory) : (s.setMem m).agenda = s.agenda := rfl
@[simp] theorem State.setMem_getV (m : Memory) (r : Nibble) : (s.setMem m).getV r = s.getV r := rfl
@[simp] theorem State.setMem_stackAt (m : Memory) (j : Fin 16) : (s.setMem m).stackAt j = s.stackAt j := rfl
@[simp] theorem State.setMem_keyDown (m : Memory) (k' : Nibble) : (s.setMem m).keyDown k' = s.keyDown k' := rfl

/-! ### setV -/

@[simp] theorem State.setV_v (x : Nibble) (b : Byte) : (s.setV x b).v = s.v.set x.toNat b x.isLt := rfl
@[simp] theorem State.setV_i (x : Nibble) (b : Byte) : (s.setV x b).i = s.i := rfl
@[simp] theorem State.setV_pc (x : Nibble) (b : Byte) : (s.setV x b).pc = s.pc := rfl
@[simp] theorem State.setV_sp (x : Nibble) (b : Byte) : (s.setV x b).sp = s.sp := rfl
@[simp] theorem State.setV_stack (x : Nibble) (b : Byte) : (s.setV x b).stack = s.stack := rfl
@[simp] theorem State.setV_dt (x : Nibble) (b : Byte) : (s.setV x b).dt = s.dt := rfl
@[simp] theorem State.setV_st (x : Nibble) (b : Byte) : (s.setV x b).st = s.st := rfl
@[simp] theorem State.setV_mem (x : Nibble) (b : Byte) : (s.setV x b).mem = s.mem := rfl
@[simp] theorem State.setV_disp (x : Nibble) (b : Byte) : (s.setV x b).disp = s.disp := rfl
@[simp] theorem State.setV_status (x : Nibble) (b : Byte) : (s.setV x b).status = s.status := rfl
@[simp] theorem State.setV_keys (x : Nibble) (b : Byte) : (s.setV x b).keys = s.keys := rfl
@[simp] theorem State.setV_params (x : Nibble) (b : Byte) : (s.setV x b).params = s.params := rfl
@[simp] theorem State.setV_rndIn (x : Nibble) (b : Byte) : (s.setV x b).rndIn = s.rndIn := rfl
@[simp] theorem State.setV_rndDraws (x : Nibble) (b : Byte) : (s.setV x b).rndDraws = s.rndDraws := rfl
@[simp] theorem State.setV_agenda (x : Nibble) (b : Byte) : (s.setV x b).agenda = s.agenda := rfl
@[simp] theorem State.setV_byteAt (x : Nibble) (b : Byte) (at' : Addr) : (s.setV x b).byteAt at' = s.byteAt at' := rfl
@[simp] theorem State.setV_stackAt (x : Nibble) (b : Byte) (j : Fin 16) : (s.setV x b).stackAt j = s.stackAt j := rfl
@[simp] theorem State.setV_keyDown (x : Nibble) (b : Byte) (k' : Nibble) : (s.setV x b).keyDown k' = s.keyDown k' := rfl

/-! ### setRegs -/

@[simp] theorem State.setRegs_v (r : Vector Byte 16) : (s.setRegs r).v = r := rfl
@[simp] theorem State.setRegs_i (r : Vector Byte 16) : (s.setRegs r).i = s.i := rfl
@[simp] theorem State.setRegs_pc (r : Vector Byte 16) : (s.setRegs r).pc = s.pc := rfl
@[simp] theorem State.setRegs_sp (r : Vector Byte 16) : (s.setRegs r).sp = s.sp := rfl
@[simp] theorem State.setRegs_stack (r : Vector Byte 16) : (s.setRegs r).stack = s.stack := rfl
@[simp] theorem State.setRegs_dt (r : Vector Byte 16) : (s.setRegs r).dt = s.dt := rfl
@[simp] theorem State.setRegs_st (r : Vector Byte 16) : (s.setRegs r).st = s.st := rfl
@[simp] theorem State.setRegs_mem (r : Vector Byte 16) : (s.setRegs r).mem = s.mem := rfl
@[simp] theorem State.setRegs_disp (r : Vector Byte 16) : (s.setRegs r).disp = s.disp := rfl
@[simp] theorem State.setRegs_status (r : Vector Byte 16) : (s.setRegs r).status = s.status := rfl
@[simp] theorem State.setRegs_keys (r : Vector Byte 16) : (s.setRegs r).keys = s.keys := rfl
@[simp] theorem State.setRegs_params (r : Vector Byte 16) : (s.setRegs r).params = s.params := rfl
@[simp] theorem State.setRegs_rndIn (r : Vector Byte 16) : (s.setRegs r).rndIn = s.rndIn := rfl
@[simp] theorem State.setRegs_rndDraws (r : Vector Byte 16) : (s.setRegs r).rndDraws = s.rndDraws := rfl
@[simp] theorem State.setRegs_agenda (r : Vector Byte 16) : (s.setRegs r).agenda = s.agenda := rfl
@[simp] theorem State.setRegs_byteAt (r : Vector Byte 16) (at' : Addr) : (s.setRegs r).byteAt at' = s.byteAt at' := rfl
@[simp] theorem State.setRegs_stackAt (r : Vector Byte 16) (j : Fin 16) : (s.setRegs r).stackAt j = s.stackAt j := rfl
@[simp] theorem State.setRegs_keyDown (r : Vector Byte 16) (k' : Nibble) : (s.setRegs r).keyDown k' = s.keyDown k' := rfl

/-! ### setI -/

@[simp] theorem State.setI_v (w : Word) : (s.setI w).v = s.v := rfl
@[simp] theorem State.setI_i (w : Word) : (s.setI w).i = w := rfl
@[simp] theorem State.setI_pc (w : Word) : (s.setI w).pc = s.pc := rfl
@[simp] theorem State.setI_sp (w : Word) : (s.setI w).sp = s.sp := rfl
@[simp] theorem State.setI_stack (w : Word) : (s.setI w).stack = s.stack := rfl
@[simp] theorem State.setI_dt (w : Word) : (s.setI w).dt = s.dt := rfl
@[simp] theorem State.setI_st (w : Word) : (s.setI w).st = s.st := rfl
@[simp] theorem State.setI_mem (w : Word) : (s.setI w).mem = s.mem := rfl
@[simp] theorem State.setI_disp (w : Word) : (s.setI w).disp = s.disp := rfl
@[simp] theorem State.setI_status (w : Word) : (s.setI w).status = s.status := rfl
@[simp] theorem State.setI_keys (w : Word) : (s.setI w).keys = s.keys := rfl
@[simp] theorem State.setI_params (w : Word) : (s.setI w).params = s.params := rfl
@[simp] theorem State.setI_rndIn (w : Word) : (s.setI w).rndIn = s.rndIn := rfl
@[simp] theorem State.setI_rndDraws (w : Word) : (s.setI w).rndDraws = s.rndDraws := rfl
@[simp] theorem State.setI_agenda (w : Word) : (s.setI w).agenda = s.agenda := rfl
@[simp] theorem State.setI_getV (w : Word) (r : Nibble) : (s.setI w).getV r = s.getV r := rfl
@[simp] theorem State.setI_byteAt (w : Word) (at' : Addr) : (s.setI w).byteAt at' = s.byteAt at' := rfl
@[simp] theorem State.setI_stackAt (w : Word) (j : Fin 16) : (s.setI w).stackAt j = s.stackAt j := rfl
@[simp] theorem State.setI_keyDown (w : Word) (k' : Nibble) : (s.setI w).keyDown k' = s.keyDown k' := rfl

/-! ### setDT -/

@[simp] theorem State.setDT_v (b : Byte) : (s.setDT b).v = s.v := rfl
@[simp] theorem State.setDT_i (b : Byte) : (s.setDT b).i = s.i := rfl
@[simp] theorem State.setDT_pc (b : Byte) : (s.setDT b).pc = s.pc := rfl
@[simp] theorem State.setDT_sp (b : Byte) : (s.setDT b).sp = s.sp := rfl
@[simp] theorem State.setDT_stack (b : Byte) : (s.setDT b).stack = s.stack := rfl
@[simp] theorem State.setDT_dt (b : Byte) : (s.setDT b).dt = b := rfl
@[simp] theorem State.setDT_st (b : Byte) : (s.setDT b).st = s.st := rfl
@[simp] theorem State.setDT_mem (b : Byte) : (s.setDT b).mem = s.mem := rfl
@[simp] theorem State.setDT_disp (b : Byte) : (s.setDT b).disp = s.disp := rfl
@[simp] theorem State.setDT_status (b : Byte) : (s.setDT b).status = s.status := rfl
@[simp] theorem State.setDT_keys (b : Byte) : (s.setDT b).keys = s.keys := rfl
@[simp] theorem State.setDT_params (b : Byte) : (s.setDT b).params = s.params := rfl
@[simp] theorem State.setDT_rndIn (b : Byte) : (s.setDT b).rndIn = s.rndIn := rfl
@[simp] theorem State.setDT_rndDraws (b : Byte) : (s.setDT b).rndDraws = s.rndDraws := rfl
@[simp] theorem State.setDT_agenda (b : Byte) : (s.setDT b).agenda = s.agenda := rfl
@[simp] theorem State.setDT_getV (b : Byte) (r : Nibble) : (s.setDT b).getV r = s.getV r := rfl
@[simp] theorem State.setDT_byteAt (b : Byte) (at' : Addr) : (s.setDT b).byteAt at' = s.byteAt at' := rfl
@[simp] theorem State.setDT_stackAt (b : Byte) (j : Fin 16) : (s.setDT b).stackAt j = s.stackAt j := rfl
@[simp] theorem State.setDT_keyDown (b : Byte) (k' : Nibble) : (s.setDT b).keyDown k' = s.keyDown k' := rfl

/-! ### setST -/

@[simp] theorem State.setST_v (b : Byte) : (s.setST b).v = s.v := rfl
@[simp] theorem State.setST_i (b : Byte) : (s.setST b).i = s.i := rfl
@[simp] theorem State.setST_pc (b : Byte) : (s.setST b).pc = s.pc := rfl
@[simp] theorem State.setST_sp (b : Byte) : (s.setST b).sp = s.sp := rfl
@[simp] theorem State.setST_stack (b : Byte) : (s.setST b).stack = s.stack := rfl
@[simp] theorem State.setST_dt (b : Byte) : (s.setST b).dt = s.dt := rfl
@[simp] theorem State.setST_st (b : Byte) : (s.setST b).st = b := rfl
@[simp] theorem State.setST_mem (b : Byte) : (s.setST b).mem = s.mem := rfl
@[simp] theorem State.setST_disp (b : Byte) : (s.setST b).disp = s.disp := rfl
@[simp] theorem State.setST_status (b : Byte) : (s.setST b).status = s.status := rfl
@[simp] theorem State.setST_keys (b : Byte) : (s.setST b).keys = s.keys := rfl
@[simp] theorem State.setST_params (b : Byte) : (s.setST b).params = s.params := rfl
@[simp] theorem State.setST_rndIn (b : Byte) : (s.setST b).rndIn = s.rndIn := rfl
@[simp] theorem State.setST_rndDraws (b : Byte) : (s.setST b).rndDraws = s.rndDraws := rfl
@[simp] theorem State.setST_agenda (b : Byte) : (s.setST b).agenda = s.agenda := rfl
@[simp] theorem State.setST_getV (b : Byte) (r : Nibble) : (s.setST b).getV r = s.getV r := rfl
@[simp] theorem State.setST_byteAt (b : Byte) (at' : Addr) : (s.setST b).byteAt at' = s.byteAt at' := rfl
@[simp] theorem State.setST_stackAt (b : Byte) (j : Fin 16) : (s.setST b).stackAt j = s.stackAt j := rfl
@[simp] theorem State.setST_keyDown (b : Byte) (k' : Nibble) : (s.setST b).keyDown k' = s.keyDown k' := rfl

/-! ### setDisp -/

@[simp] theorem State.setDisp_v (d : Display) : (s.setDisp d).v = s.v := rfl
@[simp] theorem State.setDisp_i (d : Display) : (s.setDisp d).i = s.i := rfl
@[simp] theorem State.setDisp_pc (d : Display) : (s.setDisp d).pc = s.pc := rfl
@[simp] theorem State.setDisp_sp (d : Display) : (s.setDisp d).sp = s.sp := rfl
@[simp] theorem State.setDisp_stack (d : Display) : (s.setDisp d).stack = s.stack := rfl
@[simp] theorem State.setDisp_dt (d : Display) : (s.setDisp d).dt = s.dt := rfl
@[simp] theorem State.setDisp_st (d : Display) : (s.setDisp d).st = s.st := rfl
@[simp] theorem State.setDisp_mem (d : Display) : (s.setDisp d).mem = s.mem := rfl
@[simp] theorem State.setDisp_disp (d : Display) : (s.setDisp d).disp = d := rfl
@[simp] theorem State.setDisp_status (d : Display) : (s.setDisp d).status = s.status := rfl
@[simp] theorem State.setDisp_keys (d : Display) : (s.setDisp d).keys = s.keys := rfl
@[simp] theorem State.setDisp_params (d : Display) : (s.setDisp d).params = s.params := rfl
@[simp] theorem State.setDisp_rndIn (d : Display) : (s.setDisp d).rndIn = s.rndIn := rfl
@[simp] theorem State.setDisp_rndDraws (d : Display) : (s.setDisp d).rndDraws = s.rndDraws := rfl
@[simp] theorem State.setDisp_agenda (d : Display) : (s.setDisp d).agenda = s.agenda := rfl
@[simp] theorem State.setDisp_getV (d : Display) (r : Nibble) : (s.setDisp d).getV r = s.getV r := rfl
@[simp] theorem State.setDisp_byteAt (d : Display) (at' : Addr) : (s.setDisp d).byteAt at' = s.byteAt at' := rfl
@[simp] theorem State.setDisp_stackAt (d : Display) (j : Fin 16) : (s.setDisp d).stackAt j = s.stackAt j := rfl
@[simp] theorem State.setDisp_keyDown (d : Display) (k' : Nibble) : (s.setDisp d).keyDown k' = s.keyDown k' := rfl

/-! ### drawn -/

@[simp] theorem State.drawn_v : (s.drawn).v = s.v := rfl
@[simp] theorem State.drawn_i : (s.drawn).i = s.i := rfl
@[simp] theorem State.drawn_pc : (s.drawn).pc = s.pc := rfl
@[simp] theorem State.drawn_sp : (s.drawn).sp = s.sp := rfl
@[simp] theorem State.drawn_stack : (s.drawn).stack = s.stack := rfl
@[simp] theorem State.drawn_dt : (s.drawn).dt = s.dt := rfl
@[simp] theorem State.drawn_st : (s.drawn).st = s.st := rfl
@[simp] theorem State.drawn_mem : (s.drawn).mem = s.mem := rfl
@[simp] theorem State.drawn_disp : (s.drawn).disp = s.disp := rfl
@[simp] theorem State.drawn_status : (s.drawn).status = s.status := rfl
@[simp] theorem State.drawn_keys : (s.drawn).keys = s.keys := rfl
@[simp] theorem State.drawn_params : (s.drawn).params = s.params := rfl
@[simp] theorem State.drawn_rndIn : (s.drawn).rndIn = s.rndIn.tail := rfl
@[simp] theorem State.drawn_rndDraws : (s.drawn).rndDraws = s.rndDraws + 1 := rfl
@[simp] theorem State.drawn_agenda : (s.drawn).agenda = s.agenda := rfl
@[simp] theorem State.drawn_getV (r : Nibble) : (s.drawn).getV r = s.getV r := rfl
@[simp] theorem State.drawn_byteAt (at' : Addr) : (s.drawn).byteAt at' = s.byteAt at' := rfl
@[simp] theorem State.drawn_stackAt (j : Fin 16) : (s.drawn).stackAt j = s.stackAt j := rfl
@[simp] theorem State.drawn_keyDown (k' : Nibble) : (s.drawn).keyDown k' = s.keyDown k' := rfl

/-! ### finish -/

@[simp] theorem State.finish_v (t : Addr) : (s.finish t).v = s.v := rfl
@[simp] theorem State.finish_i (t : Addr) : (s.finish t).i = s.i := rfl
@[simp] theorem State.finish_pc (t : Addr) : (s.finish t).pc = t := rfl
@[simp] theorem State.finish_sp (t : Addr) : (s.finish t).sp = s.sp := rfl
@[simp] theorem State.finish_stack (t : Addr) : (s.finish t).stack = s.stack := rfl
@[simp] theorem State.finish_dt (t : Addr) : (s.finish t).dt = s.dt := rfl
@[simp] theorem State.finish_st (t : Addr) : (s.finish t).st = s.st := rfl
@[simp] theorem State.finish_mem (t : Addr) : (s.finish t).mem = s.mem := rfl
@[simp] theorem State.finish_disp (t : Addr) : (s.finish t).disp = s.disp := rfl
@[simp] theorem State.finish_status (t : Addr) : (s.finish t).status = { s.status with state := .running } := rfl
@[simp] theorem State.finish_keys (t : Addr) : (s.finish t).keys = s.keys := rfl
@[simp] theorem State.finish_params (t : Addr) : (s.finish t).params = s.params := rfl
@[simp] theorem State.finish_rndIn (t : Addr) : (s.finish t).rndIn = s.rndIn := rfl
@[simp] theorem State.finish_rndDraws (t : Addr) : (s.finish t).rndDraws = s.rndDraws := rfl
@[simp] theorem State.finish_agenda (t : Addr) : (s.finish t).agenda = s.agenda := rfl
@[simp] theorem State.finish_getV (t : Addr) (r : Nibble) : (s.finish t).getV r = s.getV r := rfl
@[simp] theorem State.finish_byteAt (t : Addr) (at' : Addr) : (s.finish t).byteAt at' = s.byteAt at' := rfl
@[simp] theorem State.finish_stackAt (t : Addr) (j : Fin 16) : (s.finish t).stackAt j = s.stackAt j := rfl
@[simp] theorem State.finish_keyDown (t : Addr) (k' : Nibble) : (s.finish t).keyDown k' = s.keyDown k' := rfl

/-! ### hold -/

@[simp] theorem State.hold_v : (s.hold).v = s.v := rfl
@[simp] theorem State.hold_i : (s.hold).i = s.i := rfl
@[simp] theorem State.hold_pc : (s.hold).pc = s.pc := rfl
@[simp] theorem State.hold_sp : (s.hold).sp = s.sp := rfl
@[simp] theorem State.hold_stack : (s.hold).stack = s.stack := rfl
@[simp] theorem State.hold_dt : (s.hold).dt = s.dt := rfl
@[simp] theorem State.hold_st : (s.hold).st = s.st := rfl
@[simp] theorem State.hold_mem : (s.hold).mem = s.mem := rfl
@[simp] theorem State.hold_disp : (s.hold).disp = s.disp := rfl
@[simp] theorem State.hold_status : (s.hold).status = { s.status with state := .waitingForKey } := rfl
@[simp] theorem State.hold_keys : (s.hold).keys = s.keys := rfl
@[simp] theorem State.hold_params : (s.hold).params = s.params := rfl
@[simp] theorem State.hold_rndIn : (s.hold).rndIn = s.rndIn := rfl
@[simp] theorem State.hold_rndDraws : (s.hold).rndDraws = s.rndDraws := rfl
@[simp] theorem State.hold_agenda : (s.hold).agenda = s.agenda := rfl
@[simp] theorem State.hold_getV (r : Nibble) : (s.hold).getV r = s.getV r := rfl
@[simp] theorem State.hold_byteAt (at' : Addr) : (s.hold).byteAt at' = s.byteAt at' := rfl
@[simp] theorem State.hold_stackAt (j : Fin 16) : (s.hold).stackAt j = s.stackAt j := rfl
@[simp] theorem State.hold_keyDown (k' : Nibble) : (s.hold).keyDown k' = s.keyDown k' := rfl

/-! ### raise -/

@[simp] theorem State.raise_v (c : FaultCode) (op : Word) (a : Addr) : (s.raise c op a).v = s.v := rfl
@[simp] theorem State.raise_i (c : FaultCode) (op : Word) (a : Addr) : (s.raise c op a).i = s.i := rfl
@[simp] theorem State.raise_pc (c : FaultCode) (op : Word) (a : Addr) : (s.raise c op a).pc = s.pc := rfl
@[simp] theorem State.raise_sp (c : FaultCode) (op : Word) (a : Addr) : (s.raise c op a).sp = s.sp := rfl
@[simp] theorem State.raise_stack (c : FaultCode) (op : Word) (a : Addr) : (s.raise c op a).stack = s.stack := rfl
@[simp] theorem State.raise_dt (c : FaultCode) (op : Word) (a : Addr) : (s.raise c op a).dt = s.dt := rfl
@[simp] theorem State.raise_st (c : FaultCode) (op : Word) (a : Addr) : (s.raise c op a).st = s.st := rfl
@[simp] theorem State.raise_mem (c : FaultCode) (op : Word) (a : Addr) : (s.raise c op a).mem = s.mem := rfl
@[simp] theorem State.raise_disp (c : FaultCode) (op : Word) (a : Addr) : (s.raise c op a).disp = s.disp := rfl
@[simp] theorem State.raise_status (c : FaultCode) (op : Word) (a : Addr) : (s.raise c op a).status = ⟨.faulted, c, op, a⟩ := rfl
@[simp] theorem State.raise_keys (c : FaultCode) (op : Word) (a : Addr) : (s.raise c op a).keys = s.keys := rfl
@[simp] theorem State.raise_params (c : FaultCode) (op : Word) (a : Addr) : (s.raise c op a).params = s.params := rfl
@[simp] theorem State.raise_rndIn (c : FaultCode) (op : Word) (a : Addr) : (s.raise c op a).rndIn = s.rndIn := rfl
@[simp] theorem State.raise_rndDraws (c : FaultCode) (op : Word) (a : Addr) : (s.raise c op a).rndDraws = s.rndDraws := rfl
@[simp] theorem State.raise_agenda (c : FaultCode) (op : Word) (a : Addr) : (s.raise c op a).agenda = s.agenda := rfl
@[simp] theorem State.raise_getV (c : FaultCode) (op : Word) (a : Addr) (r : Nibble) : (s.raise c op a).getV r = s.getV r := rfl
@[simp] theorem State.raise_byteAt (c : FaultCode) (op : Word) (a : Addr) (at' : Addr) : (s.raise c op a).byteAt at' = s.byteAt at' := rfl
@[simp] theorem State.raise_stackAt (c : FaultCode) (op : Word) (a : Addr) (j : Fin 16) : (s.raise c op a).stackAt j = s.stackAt j := rfl
@[simp] theorem State.raise_keyDown (c : FaultCode) (op : Word) (a : Addr) (k' : Nibble) : (s.raise c op a).keyDown k' = s.keyDown k' := rfl

/-! ### tick -/

@[simp] theorem State.tick_v : (s.tick).v = s.v := rfl
@[simp] theorem State.tick_i : (s.tick).i = s.i := rfl
@[simp] theorem State.tick_pc : (s.tick).pc = s.pc := rfl
@[simp] theorem State.tick_sp : (s.tick).sp = s.sp := rfl
@[simp] theorem State.tick_stack : (s.tick).stack = s.stack := rfl
@[simp] theorem State.tick_dt : (s.tick).dt = if s.dt = 0 then 0 else s.dt - 1 := rfl
@[simp] theorem State.tick_st : (s.tick).st = if s.st = 0 then 0 else s.st - 1 := rfl
@[simp] theorem State.tick_mem : (s.tick).mem = s.mem := rfl
@[simp] theorem State.tick_disp : (s.tick).disp = s.disp := rfl
@[simp] theorem State.tick_status : (s.tick).status = s.status := rfl
@[simp] theorem State.tick_keys : (s.tick).keys = s.keys := rfl
@[simp] theorem State.tick_params : (s.tick).params = s.params := rfl
@[simp] theorem State.tick_rndIn : (s.tick).rndIn = s.rndIn := rfl
@[simp] theorem State.tick_rndDraws : (s.tick).rndDraws = s.rndDraws := rfl
@[simp] theorem State.tick_agenda : (s.tick).agenda = s.agenda := rfl
@[simp] theorem State.tick_getV (r : Nibble) : (s.tick).getV r = s.getV r := rfl
@[simp] theorem State.tick_byteAt (at' : Addr) : (s.tick).byteAt at' = s.byteAt at' := rfl
@[simp] theorem State.tick_stackAt (j : Fin 16) : (s.tick).stackAt j = s.stackAt j := rfl
@[simp] theorem State.tick_keyDown (k' : Nibble) : (s.tick).keyDown k' = s.keyDown k' := rfl

/-! ### keySet -/

@[simp] theorem State.keySet_v (k : Nibble) (down : Bool) : (s.keySet k down).v = s.v := rfl
@[simp] theorem State.keySet_i (k : Nibble) (down : Bool) : (s.keySet k down).i = s.i := rfl
@[simp] theorem State.keySet_pc (k : Nibble) (down : Bool) : (s.keySet k down).pc = s.pc := rfl
@[simp] theorem State.keySet_sp (k : Nibble) (down : Bool) : (s.keySet k down).sp = s.sp := rfl
@[simp] theorem State.keySet_stack (k : Nibble) (down : Bool) : (s.keySet k down).stack = s.stack := rfl
@[simp] theorem State.keySet_dt (k : Nibble) (down : Bool) : (s.keySet k down).dt = s.dt := rfl
@[simp] theorem State.keySet_st (k : Nibble) (down : Bool) : (s.keySet k down).st = s.st := rfl
@[simp] theorem State.keySet_mem (k : Nibble) (down : Bool) : (s.keySet k down).mem = s.mem := rfl
@[simp] theorem State.keySet_disp (k : Nibble) (down : Bool) : (s.keySet k down).disp = s.disp := rfl
@[simp] theorem State.keySet_status (k : Nibble) (down : Bool) : (s.keySet k down).status = s.status := rfl
@[simp] theorem State.keySet_keys (k : Nibble) (down : Bool) : (s.keySet k down).keys = s.keys.set k.toNat down k.isLt := rfl
@[simp] theorem State.keySet_params (k : Nibble) (down : Bool) : (s.keySet k down).params = s.params := rfl
@[simp] theorem State.keySet_rndIn (k : Nibble) (down : Bool) : (s.keySet k down).rndIn = s.rndIn := rfl
@[simp] theorem State.keySet_rndDraws (k : Nibble) (down : Bool) : (s.keySet k down).rndDraws = s.rndDraws := rfl
@[simp] theorem State.keySet_agenda (k : Nibble) (down : Bool) : (s.keySet k down).agenda = s.agenda := rfl
@[simp] theorem State.keySet_getV (k : Nibble) (down : Bool) (r : Nibble) : (s.keySet k down).getV r = s.getV r := rfl
@[simp] theorem State.keySet_byteAt (k : Nibble) (down : Bool) (at' : Addr) : (s.keySet k down).byteAt at' = s.byteAt at' := rfl
@[simp] theorem State.keySet_stackAt (k : Nibble) (down : Bool) (j : Fin 16) : (s.keySet k down).stackAt j = s.stackAt j := rfl

/-! ### rndSupply -/

@[simp] theorem State.rndSupply_v (b : Byte) : (s.rndSupply b).v = s.v := rfl
@[simp] theorem State.rndSupply_i (b : Byte) : (s.rndSupply b).i = s.i := rfl
@[simp] theorem State.rndSupply_pc (b : Byte) : (s.rndSupply b).pc = s.pc := rfl
@[simp] theorem State.rndSupply_sp (b : Byte) : (s.rndSupply b).sp = s.sp := rfl
@[simp] theorem State.rndSupply_stack (b : Byte) : (s.rndSupply b).stack = s.stack := rfl
@[simp] theorem State.rndSupply_dt (b : Byte) : (s.rndSupply b).dt = s.dt := rfl
@[simp] theorem State.rndSupply_st (b : Byte) : (s.rndSupply b).st = s.st := rfl
@[simp] theorem State.rndSupply_mem (b : Byte) : (s.rndSupply b).mem = s.mem := rfl
@[simp] theorem State.rndSupply_disp (b : Byte) : (s.rndSupply b).disp = s.disp := rfl
@[simp] theorem State.rndSupply_status (b : Byte) : (s.rndSupply b).status = s.status := rfl
@[simp] theorem State.rndSupply_keys (b : Byte) : (s.rndSupply b).keys = s.keys := rfl
@[simp] theorem State.rndSupply_params (b : Byte) : (s.rndSupply b).params = s.params := rfl
@[simp] theorem State.rndSupply_rndIn (b : Byte) : (s.rndSupply b).rndIn = s.rndIn ++ [b] := rfl
@[simp] theorem State.rndSupply_rndDraws (b : Byte) : (s.rndSupply b).rndDraws = s.rndDraws := rfl
@[simp] theorem State.rndSupply_agenda (b : Byte) : (s.rndSupply b).agenda = s.agenda := rfl
@[simp] theorem State.rndSupply_getV (b : Byte) (r : Nibble) : (s.rndSupply b).getV r = s.getV r := rfl
@[simp] theorem State.rndSupply_byteAt (b : Byte) (at' : Addr) : (s.rndSupply b).byteAt at' = s.byteAt at' := rfl
@[simp] theorem State.rndSupply_stackAt (b : Byte) (j : Fin 16) : (s.rndSupply b).stackAt j = s.stackAt j := rfl
@[simp] theorem State.rndSupply_keyDown (b : Byte) (k' : Nibble) : (s.rndSupply b).keyDown k' = s.keyDown k' := rfl

/-! ### resetOp -/

@[simp] theorem State.resetOp_v : (s.resetOp).v = Vector.replicate 16 0 := rfl
@[simp] theorem State.resetOp_i : (s.resetOp).i = 0 := rfl
@[simp] theorem State.resetOp_pc : (s.resetOp).pc = 0x200 := rfl
@[simp] theorem State.resetOp_sp : (s.resetOp).sp = 0 := rfl
@[simp] theorem State.resetOp_stack : (s.resetOp).stack = Vector.replicate 16 0 := rfl
@[simp] theorem State.resetOp_dt : (s.resetOp).dt = 0 := rfl
@[simp] theorem State.resetOp_st : (s.resetOp).st = 0 := rfl
@[simp] theorem State.resetOp_mem : (s.resetOp).mem = resetMem s.params := rfl
@[simp] theorem State.resetOp_disp : (s.resetOp).disp = Display.blank := rfl
@[simp] theorem State.resetOp_status : (s.resetOp).status = Status.reset := rfl
@[simp] theorem State.resetOp_keys : (s.resetOp).keys = s.keys := rfl
@[simp] theorem State.resetOp_params : (s.resetOp).params = s.params := rfl
@[simp] theorem State.resetOp_rndIn : (s.resetOp).rndIn = s.rndIn := rfl
@[simp] theorem State.resetOp_rndDraws : (s.resetOp).rndDraws = s.rndDraws := rfl
@[simp] theorem State.resetOp_agenda : (s.resetOp).agenda = s.agenda := rfl
@[simp] theorem State.resetOp_keyDown (k' : Nibble) : (s.resetOp).keyDown k' = s.keyDown k' := rfl

/-! ### placed -/

@[simp] theorem State.placed_v (op : Word) : (s.placed op).v = s.v := rfl
@[simp] theorem State.placed_i (op : Word) : (s.placed op).i = s.i := rfl
@[simp] theorem State.placed_pc (op : Word) : (s.placed op).pc = s.pc := rfl
@[simp] theorem State.placed_sp (op : Word) : (s.placed op).sp = s.sp := rfl
@[simp] theorem State.placed_stack (op : Word) : (s.placed op).stack = s.stack := rfl
@[simp] theorem State.placed_dt (op : Word) : (s.placed op).dt = s.dt := rfl
@[simp] theorem State.placed_st (op : Word) : (s.placed op).st = s.st := rfl
@[simp] theorem State.placed_mem (op : Word) : (s.placed op).mem = s.mem.putBytes (s.pc.setWidth 16) [op.extractLsb' 8 8, op.extractLsb' 0 8] := rfl
@[simp] theorem State.placed_disp (op : Word) : (s.placed op).disp = s.disp := rfl
@[simp] theorem State.placed_status (op : Word) : (s.placed op).status = if s.status.state = .faulted then Status.reset else s.status := rfl
@[simp] theorem State.placed_keys (op : Word) : (s.placed op).keys = s.keys := rfl
@[simp] theorem State.placed_params (op : Word) : (s.placed op).params = s.params := rfl
@[simp] theorem State.placed_rndIn (op : Word) : (s.placed op).rndIn = s.rndIn := rfl
@[simp] theorem State.placed_rndDraws (op : Word) : (s.placed op).rndDraws = s.rndDraws := rfl
@[simp] theorem State.placed_agenda (op : Word) : (s.placed op).agenda = [] := rfl
@[simp] theorem State.placed_getV (op : Word) (r : Nibble) : (s.placed op).getV r = s.getV r := rfl
@[simp] theorem State.placed_stackAt (op : Word) (j : Fin 16) : (s.placed op).stackAt j = s.stackAt j := rfl
@[simp] theorem State.placed_keyDown (op : Word) (k' : Nibble) : (s.placed op).keyDown k' = s.keyDown k' := rfl

/-! ### reads after the updates that write what they read -/

@[simp] theorem State.setV_getV (x : Nibble) (b : Byte) (r : Nibble) :
    (s.setV x b).getV r = if r = x then b else s.getV r := by
  by_cases h : r = x
  · subst h; simp [State.setV, State.getV]
  · have hn : x.toNat ≠ r.toNat := fun e => h (BitVec.eq_of_toNat_eq e.symm)
    simp [State.setV, State.getV, h, hn]

@[simp] theorem State.setMem_byteAt (m : Memory) (a : Addr) : (s.setMem m).byteAt a = m.read a.toNat := rfl

@[simp] theorem State.setRegs_getV (r : Vector Byte 16) (x : Nibble) : (s.setRegs r).getV x = r[x.toNat]'x.isLt := rfl

@[simp] theorem State.keySet_keyDown (k : Nibble) (down : Bool) (k' : Nibble) :
    (s.keySet k down).keyDown k' = if k' = k then down else s.keyDown k' := by
  by_cases h : k' = k
  · subst h; simp [State.keySet, State.keyDown]
  · have hn : k.toNat ≠ k'.toNat := fun e => h (BitVec.eq_of_toNat_eq e.symm)
    simp [State.keySet, State.keyDown, h, hn]

@[simp] theorem State.resetOp_getV (x : Nibble) : s.resetOp.getV x = 0 := by
  simp [State.getV]

@[simp] theorem State.resetOp_stackAt (j : Fin 16) : s.resetOp.stackAt j = 0 := by
  simp [State.stackAt]

@[simp] theorem State.resetOp_byteAt (a : Addr) : s.resetOp.byteAt a = (resetMem s.params).read a.toNat := rfl

/-! ### the composed ends and results -/

theorem State.done_eq : s.done = s.finish (s.pc + 2) := rfl

theorem State.skipIf_eq (c : Bool) : s.skipIf c = s.finish (if c then s.pc + 4 else s.pc + 2) := rfl

/-- VF holds the flag whatever x is; another register holds the result if it is x (00_scope.md R15). -/
@[simp] theorem State.setResultFlag_getV (x : Nibble) (b f : Byte) (r : Nibble) :
    (s.setResultFlag x b f).getV r = if r = vF then f else if r = x then b else s.getV r := by
  simp [State.setResultFlag]

/-- A result of OR, AND, XOR: VF becomes 0 only when `P_LOGIC_RESETS_VF`. -/
@[simp] theorem State.setLogic_getV (x : Nibble) (b : Byte) (r : Nibble) :
    (s.setLogic x b).getV r =
      if s.params.logicResetsVF = true ∧ r = vF then 0 else if r = x then b else s.getV r := by
  cases h : s.params.logicResetsVF <;> simp [State.setLogic, h]

@[simp] theorem State.setResultFlag_i (x : Nibble) (b f : Byte) : (s.setResultFlag x b f).i = s.i := rfl
@[simp] theorem State.setResultFlag_pc (x : Nibble) (b f : Byte) : (s.setResultFlag x b f).pc = s.pc := rfl
@[simp] theorem State.setResultFlag_sp (x : Nibble) (b f : Byte) : (s.setResultFlag x b f).sp = s.sp := rfl
@[simp] theorem State.setResultFlag_stack (x : Nibble) (b f : Byte) : (s.setResultFlag x b f).stack = s.stack := rfl
@[simp] theorem State.setResultFlag_dt (x : Nibble) (b f : Byte) : (s.setResultFlag x b f).dt = s.dt := rfl
@[simp] theorem State.setResultFlag_st (x : Nibble) (b f : Byte) : (s.setResultFlag x b f).st = s.st := rfl
@[simp] theorem State.setResultFlag_mem (x : Nibble) (b f : Byte) : (s.setResultFlag x b f).mem = s.mem := rfl
@[simp] theorem State.setResultFlag_disp (x : Nibble) (b f : Byte) : (s.setResultFlag x b f).disp = s.disp := rfl
@[simp] theorem State.setResultFlag_status (x : Nibble) (b f : Byte) : (s.setResultFlag x b f).status = s.status := rfl
@[simp] theorem State.setResultFlag_keys (x : Nibble) (b f : Byte) : (s.setResultFlag x b f).keys = s.keys := rfl
@[simp] theorem State.setResultFlag_params (x : Nibble) (b f : Byte) : (s.setResultFlag x b f).params = s.params := rfl
@[simp] theorem State.setResultFlag_rndIn (x : Nibble) (b f : Byte) : (s.setResultFlag x b f).rndIn = s.rndIn := rfl
@[simp] theorem State.setResultFlag_rndDraws (x : Nibble) (b f : Byte) : (s.setResultFlag x b f).rndDraws = s.rndDraws := rfl
@[simp] theorem State.setResultFlag_agenda (x : Nibble) (b f : Byte) : (s.setResultFlag x b f).agenda = s.agenda := rfl
@[simp] theorem State.setResultFlag_byteAt (x : Nibble) (b f : Byte) (a : Addr) : (s.setResultFlag x b f).byteAt a = s.byteAt a := rfl
@[simp] theorem State.setResultFlag_stackAt (x : Nibble) (b f : Byte) (j : Fin 16) : (s.setResultFlag x b f).stackAt j = s.stackAt j := rfl
@[simp] theorem State.setResultFlag_keyDown (x : Nibble) (b f : Byte) (k : Nibble) : (s.setResultFlag x b f).keyDown k = s.keyDown k := rfl

@[simp] theorem State.setLogic_i (x : Nibble) (b : Byte) : (s.setLogic x b).i = s.i := by
  unfold State.setLogic; split <;> rfl
@[simp] theorem State.setLogic_pc (x : Nibble) (b : Byte) : (s.setLogic x b).pc = s.pc := by
  unfold State.setLogic; split <;> rfl
@[simp] theorem State.setLogic_sp (x : Nibble) (b : Byte) : (s.setLogic x b).sp = s.sp := by
  unfold State.setLogic; split <;> rfl
@[simp] theorem State.setLogic_stack (x : Nibble) (b : Byte) : (s.setLogic x b).stack = s.stack := by
  unfold State.setLogic; split <;> rfl
@[simp] theorem State.setLogic_dt (x : Nibble) (b : Byte) : (s.setLogic x b).dt = s.dt := by
  unfold State.setLogic; split <;> rfl
@[simp] theorem State.setLogic_st (x : Nibble) (b : Byte) : (s.setLogic x b).st = s.st := by
  unfold State.setLogic; split <;> rfl
@[simp] theorem State.setLogic_mem (x : Nibble) (b : Byte) : (s.setLogic x b).mem = s.mem := by
  unfold State.setLogic; split <;> rfl
@[simp] theorem State.setLogic_disp (x : Nibble) (b : Byte) : (s.setLogic x b).disp = s.disp := by
  unfold State.setLogic; split <;> rfl
@[simp] theorem State.setLogic_status (x : Nibble) (b : Byte) : (s.setLogic x b).status = s.status := by
  unfold State.setLogic; split <;> rfl
@[simp] theorem State.setLogic_keys (x : Nibble) (b : Byte) : (s.setLogic x b).keys = s.keys := by
  unfold State.setLogic; split <;> rfl
@[simp] theorem State.setLogic_params (x : Nibble) (b : Byte) : (s.setLogic x b).params = s.params := by
  unfold State.setLogic; split <;> rfl
@[simp] theorem State.setLogic_rndIn (x : Nibble) (b : Byte) : (s.setLogic x b).rndIn = s.rndIn := by
  unfold State.setLogic; split <;> rfl
@[simp] theorem State.setLogic_rndDraws (x : Nibble) (b : Byte) : (s.setLogic x b).rndDraws = s.rndDraws := by
  unfold State.setLogic; split <;> rfl
@[simp] theorem State.setLogic_agenda (x : Nibble) (b : Byte) : (s.setLogic x b).agenda = s.agenda := by
  unfold State.setLogic; split <;> rfl
@[simp] theorem State.setLogic_byteAt (x : Nibble) (b : Byte) (a : Addr) : (s.setLogic x b).byteAt a = s.byteAt a := by
  unfold State.setLogic; split <;> rfl
@[simp] theorem State.setLogic_stackAt (x : Nibble) (b : Byte) (j : Fin 16) : (s.setLogic x b).stackAt j = s.stackAt j := by
  unfold State.setLogic; split <;> rfl
@[simp] theorem State.setLogic_keyDown (x : Nibble) (b : Byte) (k : Nibble) : (s.setLogic x b).keyDown k = s.keyDown k := by
  unfold State.setLogic; split <;> rfl

end Sys2Proof.Machine
end

