-- ==== Sys2Proof/Laws/Display.lean ====
section
/-! SUPPORT. The display buffer: read after put, equal pixels are equal displays, and what one sprite bit does. -/

namespace Sys2Proof.Machine

@[simp] theorem Display.get_blank (px : Fin 64) (py : Fin 32) : Display.blank.get px py = false := by
  simp [Display.get, Display.blank]

@[simp] theorem Display.get_put (d : Display) (px x : Fin 64) (py y : Fin 32) (b : Bool) :
    (d.put px py b).get x y = if x = px ∧ y = py then b else d.get x y := by
  by_cases hy : y = py
  · subst hy
    by_cases hx : x = px
    · subst hx; simp [Display.get, Display.put]
    · have : px.val ≠ x.val := fun e => hx (Fin.ext e.symm)
      simp [Display.get, Display.put, hx, this]
  · have : py.val ≠ y.val := fun e => hy (Fin.ext e.symm)
    simp [Display.get, Display.put, hy, this]

theorem Display.ext_get (d e : Display) (h : ∀ px py, d.get px py = e.get px py) : d = e := by
  obtain ⟨d⟩ := d
  obtain ⟨e⟩ := e
  congr 1
  refine Vector.ext fun i hi => Vector.ext fun j hj => ?_
  exact h ⟨j, hj⟩ ⟨i, hi⟩

/-- One sprite bit inverts its pixel if it is set, and changes no other (45_draw.md R181). -/
theorem drawBit_get (g : Drawing) (px x : Fin 64) (py y : Fin 32) (bit : Bool) :
    (drawBit g px py bit).1.get x y = (g.1.get x y ^^ (bit && decide (x = px ∧ y = py))) := by
  cases bit with
  | false => simp [drawBit]
  | true =>
    by_cases h : x = px ∧ y = py
    · simp [drawBit, Display.setPixel, h]
    · simp [drawBit, Display.setPixel, h]

/-- A collision is a set bit on a set pixel (45_draw.md R181). -/
theorem drawBit_collide (g : Drawing) (px : Fin 64) (py : Fin 32) (bit : Bool) :
    (drawBit g px py bit).2 = (g.2 || (bit && g.1.get px py)) := by
  cases bit <;> simp [drawBit, Display.setPixel]

/-- The linear index of disp[x][y] is `y*64 + x` (10_state.md R32). -/
theorem Display.atIndex_linear (d : Display) (px : Fin 64) (py : Fin 32) :
    d.atIndex ⟨py.val * 64 + px.val, by omega⟩ = d.get px py := by
  have h1 : (py.val * 64 + px.val) % 64 = px.val := by omega
  have h2 : (py.val * 64 + px.val) / 64 = py.val := by omega
  simp only [Display.atIndex, h1, h2]
  congr 1 <;> exact Fin.ext (by simp)

end Sys2Proof.Machine
end

