-- ==== Sys2Proof/Laws/Encoding.lean ====
section
/-! SUPPORT. The words the encoder builds and the fields the decoder reads, as numbers: the fields of a built word, and words
put together again from their fields. -/

namespace Sys2Proof

section
variable (t x y n : Nibble) (kk : Byte) (nnn : Addr) (op : Word)

/-! ### as numbers -/

theorem wordFA_toNat : (wordFA t nnn).toNat = t.toNat * 4096 + nnn.toNat := by
  have := nnn.isLt
  simp only [wordFA, BitVec.toNat_append]
  rw [← Nat.shiftLeft_add_eq_or_of_lt (by omega), Nat.shiftLeft_eq]

theorem wordFXK_toNat : (wordFXK t x kk).toNat = t.toNat * 4096 + x.toNat * 256 + kk.toNat := by
  have := kk.isLt
  have := x.isLt
  simp only [wordFXK, BitVec.toNat_append]
  rw [← Nat.shiftLeft_add_eq_or_of_lt (by omega), ← Nat.shiftLeft_add_eq_or_of_lt (by omega)]
  simp only [Nat.shiftLeft_eq]
  omega

theorem wordFXYN_toNat : (wordFXYN t x y n).toNat = t.toNat * 4096 + x.toNat * 256 + y.toNat * 16 + n.toNat := by
  have := n.isLt
  have := y.isLt
  have := x.isLt
  simp only [wordFXYN, BitVec.toNat_append]
  rw [← Nat.shiftLeft_add_eq_or_of_lt (by omega), ← Nat.shiftLeft_add_eq_or_of_lt (by omega),
    ← Nat.shiftLeft_add_eq_or_of_lt (by omega)]
  simp only [Nat.shiftLeft_eq]
  omega

theorem topNibble_toNat : (topNibble op).toNat = op.toNat / 4096 % 16 := by
  simp [topNibble, Nat.shiftRight_eq_div_pow]

theorem fieldX_toNat : (fieldX op).toNat = op.toNat / 256 % 16 := by
  simp [fieldX, Nat.shiftRight_eq_div_pow]

theorem fieldY_toNat : (fieldY op).toNat = op.toNat / 16 % 16 := by
  simp [fieldY, Nat.shiftRight_eq_div_pow]

theorem fieldN_toNat : (fieldN op).toNat = op.toNat / 1 % 16 := by
  simp [fieldN, Nat.shiftRight_eq_div_pow]

theorem fieldKK_toNat : (fieldKK op).toNat = op.toNat / 1 % 256 := by
  simp [fieldKK, Nat.shiftRight_eq_div_pow]

theorem fieldNNN_toNat : (fieldNNN op).toNat = op.toNat / 1 % 4096 := by
  simp [fieldNNN, Nat.shiftRight_eq_div_pow]

/-! ### the fields of a built word -/

@[simp] theorem topNibble_FA : topNibble (wordFA t nnn) = t := by
  have := t.isLt
  have := nnn.isLt
  apply BitVec.eq_of_toNat_eq
  rw [topNibble_toNat, wordFA_toNat]
  omega

@[simp] theorem fieldNNN_FA : fieldNNN (wordFA t nnn) = nnn := by
  have := t.isLt
  have := nnn.isLt
  apply BitVec.eq_of_toNat_eq
  rw [fieldNNN_toNat, wordFA_toNat]
  omega

@[simp] theorem topNibble_FXK : topNibble (wordFXK t x kk) = t := by
  have := t.isLt
  have := x.isLt
  have := kk.isLt
  apply BitVec.eq_of_toNat_eq
  rw [topNibble_toNat, wordFXK_toNat]
  omega

@[simp] theorem fieldX_FXK : fieldX (wordFXK t x kk) = x := by
  have := t.isLt
  have := x.isLt
  have := kk.isLt
  apply BitVec.eq_of_toNat_eq
  rw [fieldX_toNat, wordFXK_toNat]
  omega

@[simp] theorem fieldKK_FXK : fieldKK (wordFXK t x kk) = kk := by
  have := t.isLt
  have := x.isLt
  have := kk.isLt
  apply BitVec.eq_of_toNat_eq
  rw [fieldKK_toNat, wordFXK_toNat]
  omega

@[simp] theorem topNibble_FXYN : topNibble (wordFXYN t x y n) = t := by
  have := t.isLt
  have := x.isLt
  have := y.isLt
  have := n.isLt
  apply BitVec.eq_of_toNat_eq
  rw [topNibble_toNat, wordFXYN_toNat]
  omega

@[simp] theorem fieldX_FXYN : fieldX (wordFXYN t x y n) = x := by
  have := t.isLt
  have := x.isLt
  have := y.isLt
  have := n.isLt
  apply BitVec.eq_of_toNat_eq
  rw [fieldX_toNat, wordFXYN_toNat]
  omega

@[simp] theorem fieldY_FXYN : fieldY (wordFXYN t x y n) = y := by
  have := t.isLt
  have := x.isLt
  have := y.isLt
  have := n.isLt
  apply BitVec.eq_of_toNat_eq
  rw [fieldY_toNat, wordFXYN_toNat]
  omega

@[simp] theorem fieldN_FXYN : fieldN (wordFXYN t x y n) = n := by
  have := t.isLt
  have := x.isLt
  have := y.isLt
  have := n.isLt
  apply BitVec.eq_of_toNat_eq
  rw [fieldN_toNat, wordFXYN_toNat]
  omega

/-! ### a word from its fields -/

/-- A word is its top nibble and its address. -/
theorem wordFA_fields : wordFA (topNibble op) (fieldNNN op) = op := by
  have := op.isLt
  apply BitVec.eq_of_toNat_eq
  simp only [wordFA_toNat, topNibble_toNat, fieldNNN_toNat]
  omega

/-- A word is its top nibble, its x and its byte. -/
theorem wordFXK_fields : wordFXK (topNibble op) (fieldX op) (fieldKK op) = op := by
  have := op.isLt
  apply BitVec.eq_of_toNat_eq
  simp only [wordFXK_toNat, topNibble_toNat, fieldX_toNat, fieldKK_toNat]
  omega

/-- A word is its four nibbles. -/
theorem wordFXYN_fields : wordFXYN (topNibble op) (fieldX op) (fieldY op) (fieldN op) = op := by
  have := op.isLt
  apply BitVec.eq_of_toNat_eq
  simp only [wordFXYN_toNat, topNibble_toNat, fieldX_toNat, fieldY_toNat, fieldN_toNat]
  omega

/-! ### decoding, one lemma a top nibble -/

/-- A nibble is one of the sixteen. -/
theorem nibble_cases : t = 0x0#4 ∨ t = 0x1#4 ∨ t = 0x2#4 ∨ t = 0x3#4 ∨ t = 0x4#4 ∨ t = 0x5#4 ∨ t = 0x6#4 ∨ t = 0x7#4 ∨ t = 0x8#4 ∨ t = 0x9#4 ∨ t = 0xA#4 ∨ t = 0xB#4 ∨ t = 0xC#4 ∨ t = 0xD#4 ∨ t = 0xE#4 ∨ t = 0xF#4 := by
  have : ∀ k : Nat, k < 16 → BitVec.ofNat 4 k = t → (t = 0x0#4 ∨ t = 0x1#4 ∨ t = 0x2#4 ∨ t = 0x3#4 ∨ t = 0x4#4 ∨ t = 0x5#4 ∨ t = 0x6#4 ∨ t = 0x7#4 ∨ t = 0x8#4 ∨ t = 0x9#4 ∨ t = 0xA#4 ∨ t = 0xB#4 ∨ t = 0xC#4 ∨ t = 0xD#4 ∨ t = 0xE#4 ∨ t = 0xF#4) := by
    intro k hk e
    subst e
    match k with
    | 0 | 1 | 2 | 3 | 4 | 5 | 6 | 7 | 8 | 9 | 10 | 11 | 12 | 13 | 14 | 15 => decide
    | k + 16 => omega
  exact this t.toNat t.isLt (by simp)

theorem decodeWord_top0 (h : topNibble op = 0x0#4) : decodeWord op = decodeGroup0 op := by
  simp [decodeWord, h]

theorem decodeWord_top1 (h : topNibble op = 0x1#4) : decodeWord op = .ins (.jp (fieldNNN op)) := by
  simp [decodeWord, h]

theorem decodeWord_top2 (h : topNibble op = 0x2#4) : decodeWord op = .ins (.call (fieldNNN op)) := by
  simp [decodeWord, h]

theorem decodeWord_top3 (h : topNibble op = 0x3#4) : decodeWord op = .ins (.seImm (fieldX op) (fieldKK op)) := by
  simp [decodeWord, h]

theorem decodeWord_top4 (h : topNibble op = 0x4#4) : decodeWord op = .ins (.sneImm (fieldX op) (fieldKK op)) := by
  simp [decodeWord, h]

theorem decodeWord_top5 (h : topNibble op = 0x5#4) : decodeWord op = (if fieldN op = 0x0#4 then .ins (.seReg (fieldX op) (fieldY op)) else .unknown .group5) := by
  simp [decodeWord, h]

theorem decodeWord_top6 (h : topNibble op = 0x6#4) : decodeWord op = .ins (.ldImm (fieldX op) (fieldKK op)) := by
  simp [decodeWord, h]

theorem decodeWord_top7 (h : topNibble op = 0x7#4) : decodeWord op = .ins (.addImm (fieldX op) (fieldKK op)) := by
  simp [decodeWord, h]

theorem decodeWord_top8 (h : topNibble op = 0x8#4) : decodeWord op = decodeGroup8 (fieldX op) (fieldY op) (fieldN op) := by
  simp [decodeWord, h]

theorem decodeWord_top9 (h : topNibble op = 0x9#4) : decodeWord op = (if fieldN op = 0x0#4 then .ins (.sneReg (fieldX op) (fieldY op)) else .unknown .group9) := by
  simp [decodeWord, h]

theorem decodeWord_topA (h : topNibble op = 0xA#4) : decodeWord op = .ins (.ldI (fieldNNN op)) := by
  simp [decodeWord, h]

theorem decodeWord_topB (h : topNibble op = 0xB#4) : decodeWord op = .ins (.jpV0 (fieldNNN op)) := by
  simp [decodeWord, h]

theorem decodeWord_topC (h : topNibble op = 0xC#4) : decodeWord op = .ins (.rnd (fieldX op) (fieldKK op)) := by
  simp [decodeWord, h]

theorem decodeWord_topD (h : topNibble op = 0xD#4) : decodeWord op = .ins (.drw (fieldX op) (fieldY op) (fieldN op)) := by
  simp [decodeWord, h]

theorem decodeWord_topE (h : topNibble op = 0xE#4) : decodeWord op = decodeGroupE (fieldX op) (fieldKK op) := by
  simp [decodeWord, h]

theorem decodeWord_topF (h : topNibble op = 0xF#4) : decodeWord op = decodeGroupF (fieldX op) (fieldKK op) := by
  simp [decodeWord, h]

/-! ### bytes -/

theorem wordOfBytes_toNat (hi lo : Byte) : (wordOfBytes hi lo).toNat = hi.toNat * 256 + lo.toNat := by
  have := lo.isLt
  simp only [wordOfBytes, BitVec.toNat_append]
  rw [← Nat.shiftLeft_add_eq_or_of_lt (by omega), Nat.shiftLeft_eq]

/-- A word is its two bytes, the high one first. -/
theorem wordOfBytes_bytes : wordOfBytes (op.extractLsb' 8 8) (op.extractLsb' 0 8) = op := by
  have := op.isLt
  apply BitVec.eq_of_toNat_eq
  rw [wordOfBytes_toNat]
  simp only [BitVec.extractLsb'_toNat, Nat.shiftRight_eq_div_pow]
  omega

end

end Sys2Proof
end

