-- ==== Sys2Proof/Laws/Memory.lean ====
section
/-! SUPPORT. Memory: read after write, the canonical form under every operation, and what the block writes, load and reset
leave in each byte. -/

namespace Sys2Proof.Machine

/-- An address below every listed one reads as unlisted. -/
theorem Memory.read_below (m : Memory) (a : Nat) (h : m.all (fun c => a < c.1) = true) : m.read a = unlistedByte a := by
  induction m with
  | nil => rfl
  | cons c rest ih =>
    obtain ⟨b, w⟩ := c
    simp only [List.all_cons, Bool.and_eq_true, decide_eq_true_eq] at h
    have hne : ¬b = a := by omega
    simp [Memory.read, hne, ih h.2]

/-- `wf` of a cons, as propositions. -/
theorem Memory.wf_cons (a : Nat) (v : Byte) (rest : Memory) :
    Memory.wf ((a, v) :: rest) = true ↔
      a < 0x1000 ∧ v ≠ unlistedByte a ∧ rest.all (fun c => a < c.1) = true ∧ Memory.wf rest = true := by
  simp [Memory.wf, and_assoc]

/-- A bound below every address stays one when a higher address is written. -/
theorem Memory.all_write (m : Memory) (lo a : Nat) (v : Byte) (h : m.all (fun c => lo < c.1) = true) (ha : lo < a) :
    (m.write a v).all (fun c => lo < c.1) = true := by
  induction m with
  | nil => unfold Memory.write; split <;> simp [ha]
  | cons c rest ih =>
    obtain ⟨b, w⟩ := c
    have h' := h
    rw [List.all_cons, Bool.and_eq_true] at h'
    have ih := ih h'.2
    have hlo : decide (lo < a) = true := decide_eq_true ha
    unfold Memory.write
    split
    · rw [List.all_cons, h'.1, ih]; rfl
    · split
      · split
        · exact h'.2
        · rw [List.all_cons, h'.2, hlo]; rfl
      · split
        · exact h
        · rw [List.all_cons, h, hlo]; rfl

/-- A lower bound passes down to a smaller one. -/
theorem Memory.all_mono (m : Memory) (lo lo' : Nat) (hle : lo' ≤ lo) (h : m.all (fun c => lo < c.1) = true) :
    m.all (fun c => lo' < c.1) = true := by
  simp only [List.all_eq_true, decide_eq_true_eq] at h ⊢
  exact fun c hc => Nat.lt_of_le_of_lt hle (h c hc)

/-- Every write keeps the canonical form. -/
theorem Memory.wf_write (m : Memory) (a : Nat) (v : Byte) (hm : m.wf = true) (ha : a < 0x1000) : (m.write a v).wf = true := by
  induction m with
  | nil =>
    unfold Memory.write
    split
    · rfl
    · simp [Memory.wf, *]
  | cons c rest ih =>
    obtain ⟨b, w⟩ := c
    obtain ⟨hb, hw, hall, hrest⟩ := (Memory.wf_cons b w rest).1 hm
    unfold Memory.write
    split
    · rename_i hlt
      exact (Memory.wf_cons _ _ _).2 ⟨hb, hw, Memory.all_write rest b a v hall hlt, ih hrest⟩
    · split
      · rename_i heq
        subst heq
        split
        · exact hrest
        · exact (Memory.wf_cons _ _ _).2 ⟨hb, ‹_›, hall, hrest⟩
      · split
        · exact hm
        · have hlt : a < b := by omega
          refine (Memory.wf_cons _ _ _).2 ⟨ha, ‹_›, ?_, hm⟩
          rw [List.all_cons, Memory.all_mono rest b a (by omega) hall, decide_eq_true hlt]; rfl

/-- Read after write: the byte written, and every other byte as before (20_memory.md R56). -/
theorem Memory.read_write (m : Memory) (a b : Nat) (v : Byte) (hm : m.wf = true) :
    (m.write a v).read b = if b = a then v else m.read b := by
  induction m with
  | nil =>
    unfold Memory.write
    split <;> by_cases h : b = a <;> simp_all [Memory.read]
    omega
  | cons c rest ih =>
    obtain ⟨d, w⟩ := c
    obtain ⟨hd, hw, hall, hrest⟩ := (Memory.wf_cons d w rest).1 hm
    have ih := ih hrest
    unfold Memory.write
    split
    · by_cases h : d = b
      · have : b ≠ a := by omega
        simp [Memory.read, h, this]
      · simp [Memory.read, h, ih]
    · split
      · rename_i heq
        subst heq
        have hbelow := Memory.read_below rest d hall
        split
        · by_cases h : b = d
          · simp_all
          · have : ¬d = b := fun e => h e.symm
            simp [Memory.read, h, this]
        · by_cases h : b = d
          · simp_all [Memory.read]
          · have : ¬d = b := fun e => h e.symm
            simp [Memory.read, h, this]
      · have hlt : a < d := by omega
        have hbelow := Memory.read_below rest a (Memory.all_mono rest d a (by omega) hall)
        split
        · by_cases h : b = a
          · have : ¬d = a := by omega
            simp_all [Memory.read]
          · simp [h]
        · by_cases h : b = a
          · simp_all [Memory.read]
          · have : ¬a = b := fun e => h e.symm
            simp [Memory.read, h, this]

/-! ### `put` and `putBytes` -/

theorem Memory.wf_put (m : Memory) (a : Word) (v : Byte) (hm : m.wf = true) : (m.put a v).wf = true :=
  Memory.wf_write m _ v hm (maskAddr a).isLt

theorem Memory.read_put (m : Memory) (a : Word) (b : Addr) (v : Byte) (hm : m.wf = true) :
    (m.put a v).read b.toNat = if b = maskAddr a then v else m.read b.toNat := by
  rw [Memory.put, Memory.read_write m _ _ v hm]
  simp only [BitVec.toNat_inj]

theorem Memory.wf_putBytes (bs : List Byte) (m : Memory) (a : Word) (hm : m.wf = true) : (m.putBytes a bs).wf = true := by
  induction bs generalizing m a with
  | nil => exact hm
  | cons b bs ih => exact ih _ _ (Memory.wf_put m a b hm)

/-- An address that is none of the block's reads as before. -/
theorem Memory.read_putBytes_other (bs : List Byte) (m : Memory) (a : Word) (c : Addr) (hm : m.wf = true)
    (h : ∀ k, k < bs.length → c ≠ maskAddr (a + BitVec.ofNat 16 k)) : (m.putBytes a bs).read c.toNat = m.read c.toNat := by
  induction bs generalizing m a with
  | nil => rfl
  | cons b bs ih =>
    have h0 := h 0 (by simp)
    simp only [BitVec.add_zero] at h0
    rw [Memory.putBytes, ih _ _ (Memory.wf_put m a b hm), Memory.read_put m a c b hm, if_neg h0]
    intro k hk
    have := h (k + 1) (by simpa using hk)
    rwa [BitVec.ofNat_add, BitVec.add_comm (BitVec.ofNat 16 k), ← BitVec.add_assoc] at this

/-- The masked addresses of fewer than 4096 consecutive bytes are distinct. -/
theorem maskAddr_add_inj (a : Word) (j k : Nat) (hj : j < 4096) (hk : k < 4096)
    (h : maskAddr (a + BitVec.ofNat 16 j) = maskAddr (a + BitVec.ofNat 16 k)) : j = k := by
  have := congrArg BitVec.toNat h
  simp only [maskAddr, BitVec.toNat_setWidth, BitVec.toNat_add, BitVec.toNat_ofNat] at this
  omega

/-- The block's `k`th byte stands at its masked address, for a block of at most 4096 bytes. -/
theorem Memory.read_putBytes_at (bs : List Byte) (m : Memory) (a : Word) (hm : m.wf = true) (hlen : bs.length ≤ 4096)
    (k : Nat) (hk : k < bs.length) : (m.putBytes a bs).read (maskAddr (a + BitVec.ofNat 16 k)).toNat = bs[k] := by
  induction bs generalizing m a k with
  | nil => simp at hk
  | cons b bs ih =>
    have hlen' : bs.length + 1 ≤ 4096 := by simpa using hlen
    cases k with
    | zero =>
      rw [Memory.putBytes, Memory.read_putBytes_other _ _ _ _ (Memory.wf_put m a b hm)]
      · simp [Memory.read_put m a _ b hm]
      · intro j hj e
        rw [show a + 1 + BitVec.ofNat 16 j = a + BitVec.ofNat 16 (j + 1) by
          rw [BitVec.ofNat_add, BitVec.add_comm (BitVec.ofNat 16 j), ← BitVec.add_assoc]; rfl] at e
        have := maskAddr_add_inj a 0 (j + 1) (by omega) (by omega) e
        omega
    | succ k =>
      have := ih (m.put a b) (a + 1) (Memory.wf_put m a b hm) (by omega) k (by simpa using hk)
      rw [show a + 1 + BitVec.ofNat 16 k = a + BitVec.ofNat 16 (k + 1) by
        rw [BitVec.ofNat_add, BitVec.add_comm (BitVec.ofNat 16 k), ← BitVec.add_assoc]; rfl] at this
      simpa [Memory.putBytes] using this

/-! ### `loadFrom` and reset -/

theorem Memory.wf_loadFrom (bs : List Byte) (m : Memory) (a : Nat) (hm : m.wf = true) (ha : a + bs.length ≤ 0x1000) :
    (m.loadFrom a bs).wf = true := by
  induction bs generalizing m a with
  | nil => exact hm
  | cons b bs ih =>
    simp only [List.length_cons] at ha
    exact ih _ _ (Memory.wf_write m a b hm (by omega)) (by omega)

/-- The byte at `a + k` is the image's `k`th, every other byte as before. -/
theorem Memory.read_loadFrom (bs : List Byte) (m : Memory) (a c : Nat) (hm : m.wf = true) (ha : a + bs.length ≤ 0x1000) :
    (m.loadFrom a bs).read c = if h : a ≤ c ∧ c - a < bs.length then bs[c - a]'h.2 else m.read c := by
  induction bs generalizing m a with
  | nil => simp [Memory.loadFrom]
  | cons b bs ih =>
    simp only [List.length_cons] at ha
    rw [Memory.loadFrom, ih _ _ (Memory.wf_write m a b hm (by omega)) (by omega), Memory.read_write m a c b hm]
    by_cases h1 : a + 1 ≤ c ∧ c - (a + 1) < bs.length
    · have h2 : a ≤ c ∧ c - a < (b :: bs).length := by simp only [List.length_cons]; omega
      rw [dif_pos h1, dif_pos h2]
      simp [show c - a = c - (a + 1) + 1 by omega]
    · rw [dif_neg h1]
      by_cases h3 : c = a
      · subst h3; simp
      · rw [if_neg h3, dif_neg]
        simp only [List.length_cons]
        omega

theorem resetMem_wf (p : Params) : (resetMem p).wf = true := by
  unfold resetMem
  induction p.initMem with
  | nil => exact Memory.wf_loadFrom _ _ _ rfl (by simp)
  | cons c rest ih =>
    simp only [List.foldr_cons]
    split
    · exact Memory.wf_write _ _ _ ih (by omega)
    · exact ih

/-- After reset: `P_FONT` below 0x050, `P_INIT_MEM` above (70_reset_and_hazards.md R270). -/
theorem resetMem_read (p : Params) (a : Nat) (ha : a < 0x1000) :
    (resetMem p).read a = if h : a < 80 then p.font[a] else Memory.read p.initMem a := by
  have hfold : ∀ cells : List Host.Cell,
      (cells.foldr (fun c m => if 0x50 ≤ c.1 ∧ c.1 < 0x1000 then m.write c.1 c.2 else m)
        (Memory.loadFrom [] 0 p.font.toList)).wf = true ∧
      (cells.foldr (fun c m => if 0x50 ≤ c.1 ∧ c.1 < 0x1000 then m.write c.1 c.2 else m)
        (Memory.loadFrom [] 0 p.font.toList)).read a = if h : a < 80 then p.font[a] else Memory.read cells a := by
    intro cells
    induction cells with
    | nil =>
      refine ⟨Memory.wf_loadFrom _ _ _ rfl (by simp), ?_⟩
      rw [List.foldr_nil, Memory.read_loadFrom _ _ _ _ rfl (by simp)]
      by_cases h : a < 80 <;> simp [h]
    | cons c rest ih =>
      obtain ⟨ihwf, ihread⟩ := ih
      simp only [List.foldr_cons]
      split
      · rename_i hc
        refine ⟨Memory.wf_write _ _ _ ihwf hc.2, ?_⟩
        rw [Memory.read_write _ _ _ _ ihwf, ihread]
        by_cases h : a < 80
        · have : a ≠ c.1 := by omega
          simp [h, this]
        · by_cases e : a = c.1
          · simp [e, Memory.read]
            have : ¬c.1 < 80 := by omega
            simp [this]
          · have e' : ¬c.1 = a := fun x => e x.symm
            simp [e, Memory.read, e']
      · rename_i hc
        refine ⟨ihwf, ?_⟩
        rw [ihread]
        by_cases h : a < 80
        · simp [h]
        · have e' : ¬c.1 = a := by omega
          simp [h, Memory.read, e']
  exact (hfold p.initMem).2

end Sys2Proof.Machine
end

