-- ==== Sys2Proof/Laws/Ops.lean ====
section
/-! SUPPORT. What each shared operation can do, said once: the stack, the keypad, the block load and store, fetch, the placed
word, and the outcome of a step. -/

namespace Sys2Proof.Machine

variable (s : State)

/-! ### the stack (10_state.md R29) -/

/-- A push that succeeds writes one entry and counts it. -/
theorem State.push_some {w : Word} {t : State} (h : s.push w = some t) :
    ∃ hlt : s.sp.val < 16, t = { s with stack := s.stack.set s.sp.val w hlt, sp := ⟨s.sp.val + 1, Nat.succ_lt_succ hlt⟩ } := by
  unfold State.push at h
  split at h
  · rename_i hlt
    exact ⟨hlt, (Option.some.inj h).symm⟩
  · simp at h

theorem State.push_none (w : Word) : s.push w = none ↔ s.sp.val = 16 := by
  unfold State.push
  split <;> simp <;> omega

theorem State.push_of_lt (w : Word) (h : s.sp.val < 16) :
    s.push w = some { s with stack := s.stack.set s.sp.val w h, sp := ⟨s.sp.val + 1, Nat.succ_lt_succ h⟩ } := by
  simp [State.push, h]

theorem State.pop_none : s.pop = none ↔ s.sp.val = 0 := by
  unfold State.pop
  split <;> simp [*]

/-- A pop that succeeds reads the top entry and uncounts it; no entry is written. -/
theorem State.pop_of_pos (h : 0 < s.sp.val) :
    s.pop = some (s.stackAt ⟨s.sp.val - 1, by omega⟩, { s with sp := ⟨s.sp.val - 1, by omega⟩ }) := by
  have : ¬s.sp.val = 0 := by omega
  simp only [State.pop, this, dite_false]
  rfl

/-! ### the keypad (46_input.md R192) -/

/-- The key LD Vx, K takes is down, and every lower-numbered one is up. -/
theorem State.lowestKey_some {k : Nat} (h : s.lowestKey = some k) :
    ∃ hk : k < 16, s.keys[k] = true ∧ ∀ j (hj : j < k), s.keys[j] = false := by
  obtain ⟨hk, h1, h2⟩ := List.findIdx?_eq_some_iff_getElem.1 h
  have hk' : k < 16 := by simpa using hk
  refine ⟨hk', by simpa using h1, fun j hj => ?_⟩
  have := h2 j hj
  simpa using this

/-- No key is taken exactly when none is down. -/
theorem State.lowestKey_none : s.lowestKey = none ↔ ∀ k (hk : k < 16), s.keys[k] = false := by
  simp only [State.lowestKey, List.findIdx?_eq_none_iff, id]
  constructor
  · intro h k hk
    exact h _ (by simp)
  · intro h b hb
    obtain ⟨k, hk, rfl⟩ := List.getElem_of_mem hb
    have hk' : k < 16 := by simpa using hk
    simpa using h k hk'

/-! ### the block load and store (44_memory_index.md R172, R173) -/

theorem State.regsUpTo_length (x : Nibble) : (s.regsUpTo x).length = x.toNat + 1 := by
  have := x.isLt
  simp [State.regsUpTo]
  omega

theorem State.regsUpTo_get (x : Nibble) (k : Nat) (hk : k < (s.regsUpTo x).length) :
    (s.regsUpTo x)[k] = s.v[k]'(by rw [s.regsUpTo_length] at hk; have := x.isLt; omega) := by
  simp [State.regsUpTo]

/-- Register k is loaded from `I + k` if k is below n, and is as before otherwise. -/
theorem State.loadedRegs_get (n k : Nat) (hk : k < 16) :
    (s.loadedRegs n)[k] = if k < n then s.memRead (s.atI k) else s.v[k] := by
  unfold State.loadedRegs
  induction n with
  | zero => simp
  | succ n ih =>
    rw [List.range_succ, List.foldl_append, List.foldl_cons, List.foldl_nil, Vector.getElem_setIfInBounds]
    by_cases h : n = k
    · subst h; simp
    · have : k < n + 1 ↔ k < n := by omega
      simp only [h, if_false, ih, this]

/-! ### fetch and the placed word (40_step.md R101) -/

@[simp] theorem maskAddr_setWidth (a : Addr) : maskAddr (a.setWidth 16) = a := by
  apply BitVec.eq_of_toNat_eq
  have := a.isLt
  simp only [maskAddr, BitVec.toNat_setWidth]
  omega

@[simp] theorem maskAddr_setWidth_add (a : Addr) (k : Word) : maskAddr (a.setWidth 16 + k) = a + k.setWidth 12 := by
  apply BitVec.eq_of_toNat_eq
  have := a.isLt
  simp only [maskAddr, BitVec.toNat_setWidth, BitVec.toNat_add]
  omega

/-- Masking is `& 0xFFF` (20_memory.md R52). -/
theorem maskAddr_and (a : Word) : (maskAddr a).setWidth 16 = a &&& 0x0FFF := by
  apply BitVec.eq_of_toNat_eq
  simp only [maskAddr, BitVec.toNat_setWidth, BitVec.toNat_and]
  rw [show BitVec.toNat (0x0FFF : Word) = 2 ^ 12 - 1 from rfl, Nat.and_two_pow_sub_one_eq_mod]
  omega

/-- Fetch reads the bytes at PC and PC + 1 modulo 0x1000, high byte first. -/
theorem State.fetch_eq : s.fetch = wordOfBytes (s.byteAt s.pc) (s.byteAt (s.pc + 1)) := by
  simp only [State.fetch, State.memRead, maskAddr_setWidth, maskAddr_setWidth_add]
  rfl

/-- The placed word is the one the next step fetches. -/
theorem State.placed_fetch (op : Word) (hm : s.mem.wf = true) : (s.placed op).fetch = op := by
  have h0 := Memory.read_putBytes_at [op.extractLsb' 8 8, op.extractLsb' 0 8] s.mem (s.pc.setWidth 16) hm (by simp) 0
    (by simp)
  have h1 := Memory.read_putBytes_at [op.extractLsb' 8 8, op.extractLsb' 0 8] s.mem (s.pc.setWidth 16) hm (by simp) 1
    (by simp)
  simp only [maskAddr_setWidth_add, List.getElem_cons_zero, List.getElem_cons_succ] at h0 h1
  rw [State.fetch_eq]
  have e0 : (s.placed op).byteAt (s.placed op).pc = op.extractLsb' 8 8 := by
    simpa [State.byteAt] using h0
  have e1 : (s.placed op).byteAt ((s.placed op).pc + 1) = op.extractLsb' 0 8 := by
    simpa [State.byteAt] using h1
  rw [e0, e1, wordOfBytes_bytes]

/-! ### a step -/

/-- What the core's step does: nothing on a Faulted core; a fault on an unknown word; else the decoded instruction. -/
theorem State.cpuStep_cases :
    (s.status.state = .faulted ∧ s.cpuStep = .next s) ∨
    (s.status.state ≠ .faulted ∧ (∃ why, decodeWord s.fetch = .unknown why) ∧
      s.cpuStep = .next (s.raise .unknownOpcode s.fetch s.pc)) ∨
    (s.status.state ≠ .faulted ∧ ∃ i, decodeWord s.fetch = .ins i ∧ s.cpuStep = exec i s) := by
  by_cases hf : s.status.state = .faulted
  · exact .inl ⟨hf, by simp [State.cpuStep, hf]⟩
  · right
    cases hd : decodeWord s.fetch with
    | unknown why => exact .inl ⟨hf, ⟨why, rfl⟩, by simp [State.cpuStep, hf, hd]⟩
    | ins i => exact .inr ⟨hf, i, rfl, by simp [State.cpuStep, hf, hd]⟩

/-- One step of the machine: the first operation of the agenda, or the core's step. -/
theorem step_cases :
    (s.agenda = [] ∧ step s = s.cpuStep) ∨
    (∃ op rest, s.agenda = op :: rest ∧ step s = State.perform { s with agenda := rest } op) := by
  unfold step
  cases h : s.agenda with
  | nil => exact .inl ⟨rfl, rfl⟩
  | cons op rest => exact .inr ⟨op, rest, rfl, rfl⟩

end Sys2Proof.Machine
end

