-- ==== Sys2Proof/Laws/PerInstr.lean ====
section
/-! SUPPORT. Statements about every instruction as syntax, one lemma a constructor. -/

namespace Sys2Proof.Laws

/-- The word the encoder builds matches the row of the opcode map that its instruction stands in (30_encoding.md R85). -/
def EncodeRow.Statement (i : Instr) : Prop := i.row.matches (encode i) = true

/-- Each mask of R85 keeps the fixed fields of a format and clears its operands. -/
theorem wordFA_mask (t : Nibble) (nnn : Addr) : wordFA t nnn &&& 0xF000 = wordFA t 0 := by
  have ht : t &&& 0xF#4 = t := BitVec.and_allOnes
  have e : (t ++ nnn) &&& (0xF#4 ++ 0x000#12) = t ++ 0x000#12 := by rw [BitVec.and_append, ht, BitVec.and_zero]
  exact e

theorem wordFXK_mask (t x : Nibble) (kk : Byte) : wordFXK t x kk &&& 0xF000 = wordFXK t 0 0 := by
  have ht : t &&& 0xF#4 = t := BitVec.and_allOnes
  have e : (t ++ x ++ kk) &&& (0xF#4 ++ 0x0#4 ++ 0x00#8) = t ++ 0x0#4 ++ 0x00#8 := by
    rw [BitVec.and_append, BitVec.and_append, ht, BitVec.and_zero, BitVec.and_zero]
  exact e

theorem wordFXK_maskKK (t x : Nibble) (kk : Byte) : wordFXK t x kk &&& 0xF0FF = wordFXK t 0 kk := by
  have ht : t &&& 0xF#4 = t := BitVec.and_allOnes
  have hk : kk &&& 0xFF#8 = kk := BitVec.and_allOnes
  have e : (t ++ x ++ kk) &&& (0xF#4 ++ 0x0#4 ++ 0xFF#8) = t ++ 0x0#4 ++ kk := by
    rw [BitVec.and_append, BitVec.and_append, ht, hk, BitVec.and_zero]
  exact e

theorem wordFXYN_mask (t x y n : Nibble) : wordFXYN t x y n &&& 0xF000 = wordFXYN t 0 0 0 := by
  have ht : t &&& 0xF#4 = t := BitVec.and_allOnes
  have e : (t ++ x ++ y ++ n) &&& (0xF#4 ++ 0x0#4 ++ 0x0#4 ++ 0x0#4) = t ++ 0x0#4 ++ 0x0#4 ++ 0x0#4 := by
    rw [BitVec.and_append, BitVec.and_append, BitVec.and_append, ht, BitVec.and_zero, BitVec.and_zero, BitVec.and_zero]
  exact e

theorem wordFXYN_maskN (t x y n : Nibble) : wordFXYN t x y n &&& 0xF00F = wordFXYN t 0 0 n := by
  have ht : t &&& 0xF#4 = t := BitVec.and_allOnes
  have hn : n &&& 0xF#4 = n := BitVec.and_allOnes
  have e : (t ++ x ++ y ++ n) &&& (0xF#4 ++ 0x0#4 ++ 0x0#4 ++ 0xF#4) = t ++ 0x0#4 ++ 0x0#4 ++ n := by
    rw [BitVec.and_append, BitVec.and_append, BitVec.and_append, ht, hn, BitVec.and_zero, BitVec.and_zero]
  exact e

theorem EncodeRow.sys (nnn : Addr) : EncodeRow.Statement (.sys nnn) := by
  simp only [EncodeRow.Statement, Instr.row, Row.matches, encode, wordFA_mask]; decide
theorem EncodeRow.cls : EncodeRow.Statement .cls := rfl
theorem EncodeRow.ret : EncodeRow.Statement .ret := rfl
theorem EncodeRow.jp (nnn : Addr) : EncodeRow.Statement (.jp nnn) := by
  simp only [EncodeRow.Statement, Instr.row, Row.matches, encode, wordFA_mask]; decide
theorem EncodeRow.call (nnn : Addr) : EncodeRow.Statement (.call nnn) := by
  simp only [EncodeRow.Statement, Instr.row, Row.matches, encode, wordFA_mask]; decide
theorem EncodeRow.jpV0 (nnn : Addr) : EncodeRow.Statement (.jpV0 nnn) := by
  simp only [EncodeRow.Statement, Instr.row, Row.matches, encode, wordFA_mask]; decide
theorem EncodeRow.seImm (x : Nibble) (kk : Byte) : EncodeRow.Statement (.seImm x kk) := by
  simp only [EncodeRow.Statement, Instr.row, Row.matches, encode, wordFXK_mask]; decide
theorem EncodeRow.sneImm (x : Nibble) (kk : Byte) : EncodeRow.Statement (.sneImm x kk) := by
  simp only [EncodeRow.Statement, Instr.row, Row.matches, encode, wordFXK_mask]; decide
theorem EncodeRow.seReg (x : Nibble) (y : Nibble) : EncodeRow.Statement (.seReg x y) := by
  simp only [EncodeRow.Statement, Instr.row, Row.matches, encode, wordFXYN_maskN]; decide
theorem EncodeRow.sneReg (x : Nibble) (y : Nibble) : EncodeRow.Statement (.sneReg x y) := by
  simp only [EncodeRow.Statement, Instr.row, Row.matches, encode, wordFXYN_maskN]; decide
theorem EncodeRow.ldImm (x : Nibble) (kk : Byte) : EncodeRow.Statement (.ldImm x kk) := by
  simp only [EncodeRow.Statement, Instr.row, Row.matches, encode, wordFXK_mask]; decide
theorem EncodeRow.addImm (x : Nibble) (kk : Byte) : EncodeRow.Statement (.addImm x kk) := by
  simp only [EncodeRow.Statement, Instr.row, Row.matches, encode, wordFXK_mask]; decide
theorem EncodeRow.ldReg (x : Nibble) (y : Nibble) : EncodeRow.Statement (.ldReg x y) := by
  simp only [EncodeRow.Statement, Instr.row, Row.matches, encode, wordFXYN_maskN]; decide
theorem EncodeRow.orReg (x : Nibble) (y : Nibble) : EncodeRow.Statement (.orReg x y) := by
  simp only [EncodeRow.Statement, Instr.row, Row.matches, encode, wordFXYN_maskN]; decide
theorem EncodeRow.andReg (x : Nibble) (y : Nibble) : EncodeRow.Statement (.andReg x y) := by
  simp only [EncodeRow.Statement, Instr.row, Row.matches, encode, wordFXYN_maskN]; decide
theorem EncodeRow.xorReg (x : Nibble) (y : Nibble) : EncodeRow.Statement (.xorReg x y) := by
  simp only [EncodeRow.Statement, Instr.row, Row.matches, encode, wordFXYN_maskN]; decide
theorem EncodeRow.addReg (x : Nibble) (y : Nibble) : EncodeRow.Statement (.addReg x y) := by
  simp only [EncodeRow.Statement, Instr.row, Row.matches, encode, wordFXYN_maskN]; decide
theorem EncodeRow.subReg (x : Nibble) (y : Nibble) : EncodeRow.Statement (.subReg x y) := by
  simp only [EncodeRow.Statement, Instr.row, Row.matches, encode, wordFXYN_maskN]; decide
theorem EncodeRow.shr (x : Nibble) (y : Nibble) : EncodeRow.Statement (.shr x y) := by
  simp only [EncodeRow.Statement, Instr.row, Row.matches, encode, wordFXYN_maskN]; decide
theorem EncodeRow.subnReg (x : Nibble) (y : Nibble) : EncodeRow.Statement (.subnReg x y) := by
  simp only [EncodeRow.Statement, Instr.row, Row.matches, encode, wordFXYN_maskN]; decide
theorem EncodeRow.shl (x : Nibble) (y : Nibble) : EncodeRow.Statement (.shl x y) := by
  simp only [EncodeRow.Statement, Instr.row, Row.matches, encode, wordFXYN_maskN]; decide
theorem EncodeRow.rnd (x : Nibble) (kk : Byte) : EncodeRow.Statement (.rnd x kk) := by
  simp only [EncodeRow.Statement, Instr.row, Row.matches, encode, wordFXK_mask]; decide
theorem EncodeRow.ldI (nnn : Addr) : EncodeRow.Statement (.ldI nnn) := by
  simp only [EncodeRow.Statement, Instr.row, Row.matches, encode, wordFA_mask]; decide
theorem EncodeRow.addI (x : Nibble) : EncodeRow.Statement (.addI x) := by
  simp only [EncodeRow.Statement, Instr.row, Row.matches, encode, wordFXK_maskKK]; decide
theorem EncodeRow.stRegs (x : Nibble) : EncodeRow.Statement (.stRegs x) := by
  simp only [EncodeRow.Statement, Instr.row, Row.matches, encode, wordFXK_maskKK]; decide
theorem EncodeRow.ldRegs (x : Nibble) : EncodeRow.Statement (.ldRegs x) := by
  simp only [EncodeRow.Statement, Instr.row, Row.matches, encode, wordFXK_maskKK]; decide
theorem EncodeRow.drw (x : Nibble) (y : Nibble) (n : Nibble) : EncodeRow.Statement (.drw x y n) := by
  simp only [EncodeRow.Statement, Instr.row, Row.matches, encode, wordFXYN_mask]; decide
theorem EncodeRow.skp (x : Nibble) : EncodeRow.Statement (.skp x) := by
  simp only [EncodeRow.Statement, Instr.row, Row.matches, encode, wordFXK_maskKK]; decide
theorem EncodeRow.sknp (x : Nibble) : EncodeRow.Statement (.sknp x) := by
  simp only [EncodeRow.Statement, Instr.row, Row.matches, encode, wordFXK_maskKK]; decide
theorem EncodeRow.ldKey (x : Nibble) : EncodeRow.Statement (.ldKey x) := by
  simp only [EncodeRow.Statement, Instr.row, Row.matches, encode, wordFXK_maskKK]; decide
theorem EncodeRow.ldVxDT (x : Nibble) : EncodeRow.Statement (.ldVxDT x) := by
  simp only [EncodeRow.Statement, Instr.row, Row.matches, encode, wordFXK_maskKK]; decide
theorem EncodeRow.ldDT (x : Nibble) : EncodeRow.Statement (.ldDT x) := by
  simp only [EncodeRow.Statement, Instr.row, Row.matches, encode, wordFXK_maskKK]; decide
theorem EncodeRow.ldST (x : Nibble) : EncodeRow.Statement (.ldST x) := by
  simp only [EncodeRow.Statement, Instr.row, Row.matches, encode, wordFXK_maskKK]; decide
theorem EncodeRow.ldF (x : Nibble) : EncodeRow.Statement (.ldF x) := by
  simp only [EncodeRow.Statement, Instr.row, Row.matches, encode, wordFXK_maskKK]; decide
theorem EncodeRow.ldB (x : Nibble) : EncodeRow.Statement (.ldB x) := by
  simp only [EncodeRow.Statement, Instr.row, Row.matches, encode, wordFXK_maskKK]; decide

end Sys2Proof.Laws
end

