-- ==== Sys2Proof/Tests/Slice0.lean ====
section
/-! SUPPORT. Tests, each expected result from spec/95_test_vectors.md (its id in the comment) or worked out by hand from the
rule named, and a witness for the hypotheses of each statement. -/

namespace Sys2Proof.Tests

open Sys2Proof Sys2Proof.Machine

/-! ## Well-formedness (30_encoding.md R84): the one check, and words that pass it -/

theorem test_sys_0E0_refused : (Instr.sys 0x0E0).wellFormed = false := by decide
theorem test_sys_0EE_refused : (Instr.sys 0x0EE).wellFormed = false := by decide
theorem test_sys_0E1_accepted : (Instr.sys 0x0E1).wellFormed = true := by decide

/-! ## Decoding: one word of every constructor, written out from the patterns of R85 -/

-- E1 to E4, and rows 1 to 6
theorem test_decode_control :
    decodeWord 0x0000 = .ins (.sys 0x000) ∧ decodeWord 0x00E1 = .ins (.sys 0x0E1) ∧ decodeWord 0x00E0 = .ins .cls ∧
    decodeWord 0x00EE = .ins .ret ∧ decodeWord 0x1ABC = .ins (.jp 0xABC) ∧ decodeWord 0x2300 = .ins (.call 0x300) ∧
    decodeWord 0xB301 = .ins (.jpV0 0x301) := by decide

-- E5, rows 7 to 10
theorem test_decode_skip :
    decodeWord 0x3342 = .ins (.seImm 3 0x42) ∧ decodeWord 0x4A01 = .ins (.sneImm 0xA 0x01) ∧
    decodeWord 0x5120 = .ins (.seReg 1 2) ∧ decodeWord 0x9FE0 = .ins (.sneReg 0xF 0xE) := by decide

-- rows 11 to 22
theorem test_decode_load_arith :
    decodeWord 0x6A9C = .ins (.ldImm 0xA 0x9C) ∧ decodeWord 0x70FF = .ins (.addImm 0 0xFF) ∧
    decodeWord 0x8120 = .ins (.ldReg 1 2) ∧ decodeWord 0x8121 = .ins (.orReg 1 2) ∧ decodeWord 0x8122 = .ins (.andReg 1 2) ∧
    decodeWord 0x8123 = .ins (.xorReg 1 2) ∧ decodeWord 0x8124 = .ins (.addReg 1 2) ∧ decodeWord 0x8125 = .ins (.subReg 1 2) ∧
    decodeWord 0x8126 = .ins (.shr 1 2) ∧ decodeWord 0x8127 = .ins (.subnReg 1 2) ∧ decodeWord 0x812E = .ins (.shl 1 2) ∧
    decodeWord 0xC10F = .ins (.rnd 1 0x0F) := by decide

-- rows 23 to 27
theorem test_decode_index_draw :
    decodeWord 0xA2F0 = .ins (.ldI 0x2F0) ∧ decodeWord 0xF21E = .ins (.addI 2) ∧ decodeWord 0xF355 = .ins (.stRegs 3) ∧
    decodeWord 0xF465 = .ins (.ldRegs 4) ∧ decodeWord 0xD125 = .ins (.drw 1 2 5) := by decide

-- rows 28 to 35
theorem test_decode_keys_timers_bcd :
    decodeWord 0xE59E = .ins (.skp 5) ∧ decodeWord 0xE6A1 = .ins (.sknp 6) ∧ decodeWord 0xF30A = .ins (.ldKey 3) ∧
    decodeWord 0xF407 = .ins (.ldVxDT 4) ∧ decodeWord 0xF515 = .ins (.ldDT 5) ∧ decodeWord 0xF618 = .ins (.ldST 6) ∧
    decodeWord 0xF729 = .ins (.ldF 7) ∧ decodeWord 0xF833 = .ins (.ldB 8) := by decide

-- E6 to E10
theorem test_decode_illegal :
    decodeWord 0x512F = .unknown .group5 ∧ decodeWord 0x812F = .unknown .group8 ∧ decodeWord 0x9121 = .unknown .group9 ∧
    decodeWord 0xE1A0 = .unknown .groupE ∧ decodeWord 0xF156 = .unknown .groupF ∧ decodeWord 0xF1FF = .unknown .groupF := by decide

theorem test_decode_one_byte : decodeBytes [0x12] = (.unknown .truncated, [0x12]) := by decide
theorem test_decode_rest : decodeBytes [0x12, 0x00, 0x34] = (.ins (.jp 0x200), [0x34]) := by decide
theorem test_decode_table_word : decodeTableWord 16 0xD12F = some (.drw 1 2 0xF) := by decide

-- ST7: `LD V0, 0x05`
theorem test_asm_text : asmText (.ldImm 0 0x05) = "LD V0, 0x05" ∧ asmText (.stRegs 2) = "LD [I], V2" := by decide

/-! ## One step of each instruction -/

/-- The reset state with these registers. -/
def withV (l : List (Nibble × Byte)) : State := l.foldl (fun s p => s.setV p.1 p.2) State.reset

/-- The state one step after `op` is placed where `s` fetches. -/
def after (s : State) (op : Word) : Option State :=
  match step (s.placed op) with
  | .next t => some t
  | .fault _ => none
  | .refused _ => none

/-- A field of the state after the step. -/
def got {α : Type} (s : State) (op : Word) (f : State → α) : Option α := (after s op).map f

def withParams (f : Params → Params) (s : State) : State := { s with params := f s.params }

/-- The reset state with SP entries in use, the top one `w`. -/
def withStack (n : Fin 17) (w : Word) : State := { State.reset with sp := n, stack := Vector.replicate 16 w }

-- CF1, CF2
theorem test_sys_fault : got State.reset 0x0123 (fun t => (t.statusOut, t.pc)) = some ((2, 1, 0x0123, 0x200), 0x200) := by decide
theorem test_sys_ignore :
    got (withParams (fun p => { p with sysPolicy := .ignore }) State.reset) 0x0123 (fun t => (t.statusOut, t.pc)) =
      some ((0, 0, 0, 0), 0x202) := by decide
-- CF3 with one pixel
theorem test_cls :
    got (State.reset.setDisp (Display.blank.put 3 4 true)) 0x00E0 (fun t => (t.disp.get 3 4, t.pc)) = some (false, 0x202) := by decide
-- CF4, CF5
theorem test_ret : got { withStack 1 0x204 with pc := 0x30A } 0x00EE (fun t => (t.pc, t.sp, t.stackAt 0)) = some (0x204, 0, 0x204) := by
  decide
theorem test_ret_underflow : got State.reset 0x00EE (fun t => (t.statusOut, t.sp)) = some ((2, 3, 0x00EE, 0x200), 0) := by decide
-- CF7
theorem test_jp_odd : got State.reset 0x1201 State.pc = some 0x201 := by decide
-- CF9, CF10
theorem test_call_wrap : got { State.reset with pc := 0xFFE } 0x2400 (fun t => (t.stackAt 0, t.sp, t.pc)) = some (0x000, 1, 0x400) := by
  decide
theorem test_call_overflow : got (withStack 16 0x202) 0x2300 (fun t => (t.statusOut, t.sp)) = some ((2, 2, 0x2300, 0x200), 16) := by
  decide
-- CF11, CF12
theorem test_jpV0_vx :
    got (withParams (fun p => { p with jumpOffsetReg := .vx }) (withV [(0, 0x04), (3, 0x10)])) 0xB300 State.pc = some 0x310 := by decide
theorem test_jpV0_wrap : got (withV [(0, 0xFF)]) 0xBFFF State.pc = some 0x0FE := by decide
-- SK3, SK2, SK4, SK5, SK7
theorem test_seImm_wrap : got { State.reset with pc := 0xFFE } 0x3000 State.pc = some 0x002 := by decide
theorem test_seImm_no_skip : got (withV [(3, 0x42)]) 0x3343 State.pc = some 0x202 := by decide
theorem test_sneImm : got (withV [(3, 0x42)]) 0x4300 State.pc = some 0x204 := by decide
theorem test_seReg : got (withV [(1, 7), (2, 7)]) 0x5120 State.pc = some 0x204 := by decide
theorem test_sneReg : got (withV [(1, 7), (2, 8)]) 0x9120 State.pc = some 0x204 := by decide
-- LA1, LA2, LA4
theorem test_ldImm : got State.reset 0x6A9C (fun t => (t.getV 0xA, t.pc)) = some (0x9C, 0x202) := by decide
theorem test_addImm_no_carry : got (withV [(0, 0xFF)]) 0x7001 (fun t => (t.getV 0, t.getV 0xF)) = some (0x00, 0) := by decide
theorem test_ldReg : got (withV [(2, 0x33)]) 0x8120 (fun t => t.getV 1) = some 0x33 := by decide
-- LA5, LA6
theorem test_or : got (withV [(1, 0x0F), (2, 0xF0), (0xF, 7)]) 0x8121 (fun t => (t.getV 1, t.getV 0xF)) = some (0xFF, 7) := by decide
theorem test_or_resets_vf :
    got (withParams (fun p => { p with logicResetsVF := true }) (withV [(1, 0x0F), (2, 0xF0), (0xF, 7)])) 0x8121
      (fun t => (t.getV 1, t.getV 0xF)) = some (0xFF, 0) := by decide
theorem test_and : got (withV [(1, 0x3C), (2, 0x0F)]) 0x8122 (fun t => t.getV 1) = some 0x0C := by decide
theorem test_xor : got (withV [(1, 0x3C), (2, 0x0F)]) 0x8123 (fun t => t.getV 1) = some 0x33 := by decide
-- LA8, LA10
theorem test_add_carry : got (withV [(1, 0xFF), (2, 0x01)]) 0x8124 (fun t => (t.getV 1, t.getV 0xF)) = some (0x00, 1) := by decide
theorem test_add_into_vf : got (withV [(0xF, 0x01), (1, 0xFF)]) 0x8F14 (fun t => t.getV 0xF) = some 1 := by decide
-- LA12, LA15
theorem test_sub_borrow : got (withV [(1, 0x10), (2, 0x20)]) 0x8125 (fun t => (t.getV 1, t.getV 0xF)) = some (0xF0, 0) := by decide
theorem test_sub_into_vf : got (withV [(0xF, 5), (1, 3)]) 0x8F15 (fun t => t.getV 0xF) = some 1 := by decide
-- LA16
theorem test_shr_vx : got (withV [(3, 0x81), (2, 0x20)]) 0x8326 (fun t => (t.getV 3, t.getV 0xF)) = some (0x40, 1) := by decide
theorem test_shr_vy :
    got (withParams (fun p => { p with shiftSource := .vy }) (withV [(3, 0x81), (2, 0x20)])) 0x8326
      (fun t => (t.getV 3, t.getV 0xF)) = some (0x10, 0) := by decide
-- LA18, LA19
theorem test_subn : got (withV [(1, 0x10), (2, 0x20)]) 0x8127 (fun t => (t.getV 1, t.getV 0xF)) = some (0x10, 1) := by decide
theorem test_subn_borrow : got (withV [(1, 0x20), (2, 0x10)]) 0x8127 (fun t => (t.getV 1, t.getV 0xF)) = some (0xF0, 0) := by decide
-- LA20, LA21
theorem test_shl_vx : got (withV [(1, 0x81), (2, 0x20)]) 0x812E (fun t => (t.getV 1, t.getV 0xF)) = some (0x02, 1) := by decide
theorem test_shl_into_vf : got (withV [(0xF, 0x81)]) 0x8F0E (fun t => t.getV 0xF) = some 1 := by decide
-- LA22, LA23
theorem test_rnd : got { State.reset with rndIn := [0xA7, 0x55] } 0xC10F (fun t => (t.getV 1, t.rndIn)) = some (0x07, [0x55]) := by
  decide
theorem test_rnd_free : ∀ r : Byte, r &&& 0x00 = 0x00 := fun _ => BitVec.and_zero
-- MI1, MI3, MI4
theorem test_ldI : got State.reset 0xAFFF State.i = some 0x0FFF := by decide
theorem test_addI_16 : got ((withV [(2, 1)]).setI 0xFFFF) 0xF21E State.i = some 0x0000 := by decide
theorem test_addI_12 :
    got (withParams (fun p => { p with addIWrap := .bits12 }) ((withV [(2, 1)]).setI 0xFFF)) 0xF21E State.i = some 0x000 := by decide
-- MI6, MI5 with increment
theorem test_stRegs_wrap :
    got ((withV [(0, 0xA0), (1, 0xA1), (2, 0xA2), (3, 0xA3)]).setI 0xFFE) 0xF355
      (fun t => [t.byteAt 0xFFE, t.byteAt 0xFFF, t.byteAt 0x000, t.byteAt 0x001, t.byteAt 0x002]) =
        some [0xA0, 0xA1, 0xA2, 0xA3, 0x90] := by decide
theorem test_stRegs_increment :
    got (withParams (fun p => { p with ldstIncrementsI := true }) ((withV [(0, 1), (1, 2), (2, 3)]).setI 0x300)) 0xF255
      (fun t => (t.byteAt 0x302, t.i)) = some (3, 0x303) := by decide
-- MI7, and R173 with x = 0
theorem test_ldRegs :
    got { (State.reset.setI 0x300) with mem := [(0x300, 1), (0x301, 5), (0x302, 6), (0x303, 9)] } 0xF265
      (fun t => (t.getV 0, t.getV 1, t.getV 2, t.getV 3, t.i)) = some (1, 5, 6, 0, 0x300) := by decide
-- DR7, DR3
theorem test_drw_collision :
    got (State.reset.setDisp (Display.blank.put 0 0 true)) 0xD121
      (fun t => (t.disp.get 0 0, t.disp.get 1 0, t.disp.get 3 0, t.disp.get 4 0, t.getV 0xF)) =
        some (false, true, true, false, 1) := by decide
theorem test_drw_wrap :
    got (withV [(1, 62)]) 0xD121
      (fun t => (t.disp.get 62 0, t.disp.get 63 0, t.disp.get 0 0, t.disp.get 1 0, t.disp.get 2 0, t.getV 0xF)) =
        some (true, true, true, true, false, 0) := by decide
-- KP3, KP4
theorem test_skp : got ((withV [(5, 0x1A)]).keySet 0xA true) 0xE59E State.pc = some 0x204 := by decide
theorem test_sknp : got { withV [(5, 0x0A)] with pc := 0x210 } 0xE5A1 State.pc = some 0x214 := by decide
-- KP5, KP7
theorem test_ldKey_holds :
    got { State.reset with pc := 0x220 } 0xF30A (fun t => (t.statusOut, t.pc, t.getV 3)) = some ((1, 0, 0, 0), 0x220, 0) := by decide
theorem test_ldKey_lowest :
    got ((State.reset.keySet 7 true).keySet 3 true) 0xF30A (fun t => (t.statusOut, t.pc, t.getV 3)) =
      some ((0, 0, 0, 0), 0x202, 3) := by decide
-- TM1, TM2, TM3
theorem test_ldVxDT : got (State.reset.setDT 0x3C) 0xF407 (fun t => t.getV 4) = some 0x3C := by decide
theorem test_ldDT_ticks : got (withV [(4, 5)]) 0xF415 (fun t => (t.dt, (t.ticks 4).dt, (t.ticks 6).dt)) = some (5, 1, 0) := by decide
theorem test_ldST_sound :
    got (withV [(4, 2)]) 0xF418 (fun t => (t.st, t.soundOn, t.tick.soundOn, t.tick.tick.soundOn)) = some (2, true, true, false) := by
  decide
-- BF6, BF7
theorem test_ldF : got (withV [(1, 0xFF)]) 0xF129 State.i = some 0x04B := by decide
theorem test_ldF_low_nibble : got (withV [(1, 0x1A)]) 0xF129 State.i = some 0x032 := by decide
-- BF4, BF1
theorem test_ldB_wrap :
    got ((withV [(2, 255)]).setI 0xFFE) 0xF233 (fun t => (t.byteAt 0xFFE, t.byteAt 0xFFF, t.byteAt 0x000, t.i)) =
      some (2, 5, 5, 0xFFE) := by decide
theorem test_ldB : got ((withV [(2, 156)]).setI 0x300) 0xF233 (fun t => (t.byteAt 0x300, t.byteAt 0x301, t.byteAt 0x302)) =
    some (1, 5, 6) := by decide

/-! ## The step, the host's operations, reset -/

-- ST1: fetch wraps at 0xFFF, the second byte is the font's first
theorem test_fetch_wraps :
    (match step { State.reset with pc := 0xFFF, mem := [(0xFFF, 0x61)] } with
      | .next t => some (t.getV 1, t.pc)
      | _ => none) = some (0xF0, 0x001) := by decide
-- S8
theorem test_illegal_word : got State.reset 0x5121 (fun t => (t.statusOut, t.pc)) = some ((2, 1, 0x5121, 0x200), 0x200) := by decide
-- ST2
theorem test_faulted_no_op :
    let s := State.reset.raise .unknownOpcode 0x5121 0x200
    (match step s with | .next t => some t | _ => none) = some s ∧ s.trace = none := by decide
-- TM5
theorem test_tick_faulted : ((State.reset.raise .unknownOpcode 0 0).setDT 3).tick.dt = 2 := by decide
-- ST4 with the condition alone, ST6
theorem test_load_too_long (s : State) (image : List Byte) (h : image.length = 0xE01) : (s.load image).statusOut = (2, 4, 0, 0) := by
  simp [State.load, h, State.statusOut, CoreState.bits, FaultCode.bits]
theorem test_load_twice :
    (fun t : State => (t.byteAt 0x200, t.byteAt 0x201, t.byteAt 0x202)) ((State.reset.load [0x60, 0x01, 0x07]).load [0x61, 0x02]) =
      (0x61, 0x02, 0x07) := by decide
-- ST7, ST8
theorem test_trace :
    (State.reset.placed 0x6005).trace = some ⟨0x200, 0x6005, .ins (.ldImm 0 0x05)⟩ ∧
    (State.reset.placed 0x5121).trace = some ⟨0x200, 0x5121, .unknown .group5⟩ := by decide
-- S1: glyphs 0, A and F of R33's table
theorem test_reset_font :
    [0x000, 0x001, 0x004, 0x032, 0x034, 0x04B, 0x04F, 0x050].map State.reset.byteAt =
      [0xF0, 0x90, 0xF0, 0xF0, 0xF0, 0xF0, 0x80, 0x00] := by decide
-- ST3
theorem test_reset_clears_fault : (State.reset.raise .stackOverflow 0x2300 0x200).resetOp = State.reset := by decide
-- an agenda: a key event, a tick, then the core's step
theorem test_agenda :
    Host.Core.run core 3 { (State.reset.setDT 2).placed 0xF30A with agenda := [.keySet 7 true, .tick] } =
      .next { ((State.reset.setDT 1).placed 0xF30A) with
        v := State.reset.v.set 3 7, pc := 0x202, keys := State.reset.keys.set 7 true } := rfl

/-! ## Witnesses: states and operands that meet the hypotheses of each statement -/

theorem witness_wellFormed : (Instr.sys 0xFFF).WellFormed ∧ (Instr.drw 0xF 0xF 0xF).WellFormed := by decide
theorem witness_decodes : decodeWord 0xFF65 = .ins (.ldRegs 0xF) := by decide
theorem witness_step_runs :
    (State.reset.placed 0xD12F).CoreNext ∧ (State.reset.placed 0xD12F).status.state ≠ .faulted ∧
    decodeBytes [(State.reset.placed 0xD12F).byteAt 0x200, (State.reset.placed 0xD12F).byteAt 0x201] = (.ins (.drw 1 2 0xF), []) := by
  refine ⟨rfl, by decide, by decide⟩
theorem witness_illegal_word :
    (State.reset.placed 0x8128).CoreNext ∧ (State.reset.placed 0x8128).status.state ≠ .faulted ∧
    decodeWord (wordOfBytes ((State.reset.placed 0x8128).byteAt 0x200) ((State.reset.placed 0x8128).byteAt 0x201)) =
      .unknown .group8 := by
  refine ⟨rfl, by decide, by decide⟩
theorem witness_faulted : (State.reset.raise .invalidLoad 0 0).status.state = .faulted ∧ (State.reset.raise .invalidLoad 0 0).CoreNext :=
  ⟨rfl, rfl⟩
theorem witness_faulted_operation :
    Op.tick ≠ Op.reset ∧ (State.reset.raise .invalidLoad 0 0).perform .tick = .next (State.reset.raise .invalidLoad 0 0).tick :=
  ⟨by decide, rfl⟩

/-- The invariant at reset, for the statement's premise. -/
theorem witness_invariant_step :
    State.reset.mem.wf = true ∧ (∀ j : Fin 16, (State.reset.stackAt j).toNat ≤ 0xFFF) ∧ State.reset.StatusLegal ∧
    ∃ t, step State.reset = .next t := by
  refine ⟨rfl, by decide, ?_, ⟨_, rfl⟩⟩
  exact ⟨by decide, rfl, rfl⟩
theorem witness_fault_unknown :
    State.reset.status.state ≠ .faulted ∧ State.reset.cpuStep = .next (State.reset.raise .unknownOpcode 0 0x200) :=
  ⟨by decide, rfl⟩
theorem witness_fault_overflow :
    ((withStack 16 0).placed 0x2300).cpuStep = .next (((withStack 16 0).placed 0x2300).raise .stackOverflow 0x2300 0x200) := rfl
theorem witness_fault_underflow :
    (State.reset.placed 0x00EE).cpuStep = .next ((State.reset.placed 0x00EE).raise .stackUnderflow 0x00EE 0x200) := rfl
theorem witness_load_too_long : ∃ image : List Byte, 0xE00 < image.length ∧ image.length = 0xE01 :=
  ⟨List.replicate 0xE01 0, by rw [List.length_replicate]; omega, List.length_replicate⟩
theorem witness_load_fits : State.reset.mem.wf = true ∧ ∃ image : List Byte, image.length ≤ 0xE00 ∧ 0 < image.length ∧ image.length = 0xE00 :=
  ⟨rfl, List.replicate 0xE00 0, Nat.le_of_eq List.length_replicate, by rw [List.length_replicate]; omega, List.length_replicate⟩
theorem witness_hold :
    (State.reset.placed 0xF30A).cpuStep = .next (State.reset.placed 0xF30A).hold ∧
    (State.reset.placed 0xF30A).hold.status.state = .waitingForKey := ⟨rfl, rfl⟩
theorem witness_agenda : { State.reset with agenda := [Op.tick, Op.step] }.agenda = Op.tick :: [Op.step] := rfl
theorem witness_ended_jump : (State.reset.placed 0x1200).CoreNext ∧ (State.reset.placed 0x1200).RunEnded :=
  ⟨rfl, .inr (by decide)⟩
theorem witness_ended_fault : (State.reset.raise .unknownOpcode 0 0x200).CoreNext ∧ (State.reset.raise .unknownOpcode 0 0x200).RunEnded :=
  ⟨rfl, .inl rfl⟩
theorem witness_dt_changes : ∃ t, exec (.ldDT 1) (withV [(1, 9)]) = .next t ∧ t.dt ≠ (withV [(1, 9)]).dt := ⟨_, rfl, by decide⟩
theorem witness_st_changes : ∃ t, exec (.ldST 1) (withV [(1, 9)]) = .next t ∧ t.st ≠ (withV [(1, 9)]).st := ⟨_, rfl, by decide⟩
theorem witness_other_operation :
    ∃ t, State.reset.perform (.keySet 0 true) = .next t ∧ Op.keySet 0 true ≠ .step ∧ Op.keySet 0 true ≠ .tick ∧ Op.keySet 0 true ≠ .reset :=
  ⟨_, rfl, by decide, by decide, by decide⟩
theorem witness_ticks_agree : State.reset.dt = (State.reset.setI 5).dt ∧ State.reset.st = (State.reset.setI 5).st := ⟨rfl, rfl⟩
theorem witness_vf_changes :
    ∃ t, exec (.addReg 1 2) (withV [(1, 0xFF), (2, 1)]) = .next t ∧ t.getV vF ≠ (withV [(1, 0xFF), (2, 1)]).getV vF :=
  ⟨_, rfl, by decide⟩
theorem witness_stack_changes :
    ∃ t, exec (.call 0x300) State.reset = .next t ∧ t.stackAt 0 ≠ State.reset.stackAt 0 ∧ t.sp ≠ State.reset.sp :=
  ⟨_, rfl, by decide, by decide⟩
theorem witness_memory_changes :
    ∃ t, exec (.ldB 1) (withV [(1, 123)]) = .next t ∧ t.byteAt 0 ≠ (withV [(1, 123)]).byteAt 0 := ⟨_, rfl, by decide⟩
theorem witness_memory_operation :
    ∃ t, State.reset.perform (.load [0x12]) = .next t ∧ t.byteAt 0x200 ≠ State.reset.byteAt 0x200 := ⟨_, rfl, by decide⟩
theorem witness_pixel_changes :
    ∃ t, (State.reset.placed 0xD121).perform .step = .next t ∧ t.disp.get 0 0 ≠ (State.reset.placed 0xD121).disp.get 0 0 :=
  ⟨_, rfl, by decide⟩
theorem witness_key_changes :
    ∃ t, State.reset.perform (.keySet 5 true) = .next t ∧ t.keyDown 5 ≠ State.reset.keyDown 5 := ⟨_, rfl, by decide⟩
theorem witness_sound_timer :
    ∃ t u, (State.reset.placed 0x6105).cpuStep = .next t ∧ ((State.reset.placed 0x6105).setST 7).cpuStep = .next u ∧ t ≠ u :=
  ⟨_, _, rfl, rfl, by decide⟩
theorem witness_sys_policies :
    State.reset.params.sysPolicy = .fault ∧ (withParams (fun p => { p with sysPolicy := .ignore }) State.reset).params.sysPolicy = .ignore :=
  ⟨rfl, rfl⟩
theorem witness_stack_empty_one_full :
    State.reset.sp.val = 0 ∧ (withStack 1 0).sp.val = (0 : Fin 16).val + 1 ∧ (withStack 16 0).sp.val = (15 : Fin 16).val + 1 ∧
    (withStack 16 0).sp.val = 16 ∧ (withStack 15 0).sp.val = (15 : Fin 16).val ∧ State.reset.sp.val = (0 : Fin 16).val := by decide
theorem witness_logic_choices :
    (Instr.andReg 1 2 = .orReg 1 2 ∧ and = or) ∨ (Instr.andReg 1 2 = .andReg 1 2 ∧ and = and) ∨ (Instr.andReg 1 2 = .xorReg 1 2 ∧ and = xor) :=
  .inr (.inl ⟨rfl, rfl⟩)
theorem witness_logic_clauses :
    (withParams (fun p => { p with logicResetsVF := true }) State.reset).params.logicResetsVF = true ∧ (1 : Nibble) ≠ vF ∧
    State.reset.params.logicResetsVF = false := by decide
theorem witness_subtract :
    (Instr.subnReg 1 2 = .subReg 1 2 ∧ State.reset.getV 2 = State.reset.getV 1 ∧ State.reset.getV 1 = State.reset.getV 2) ∨
    (Instr.subnReg 1 2 = .subnReg 1 2 ∧ State.reset.getV 2 = State.reset.getV 2 ∧ State.reset.getV 1 = State.reset.getV 1) :=
  .inr ⟨rfl, rfl, rfl⟩
theorem witness_shift_sources :
    State.reset.params.shiftSource = .vx ∧ (withParams (fun p => { p with shiftSource := .vy }) State.reset).params.shiftSource = .vy :=
  ⟨rfl, rfl⟩
theorem witness_rnd_queues : { State.reset with rndIn := [0xA7] }.rndIn = 0xA7 :: [] ∧ State.reset.rndIn = [] := ⟨rfl, rfl⟩
theorem witness_wraps :
    State.reset.params.addIWrap = .bits16 ∧ (withParams (fun p => { p with addIWrap := .bits12 }) State.reset).params.addIWrap = .bits12 ∧
    State.reset.params.ldstIncrementsI = false ∧
    (withParams (fun p => { p with ldstIncrementsI := true }) State.reset).params.ldstIncrementsI = true := by decide
theorem witness_memory_wf : State.reset.mem.wf = true ∧ Memory.wf [(0x300, 1), (0xFFF, 2)] = true ∧ (0xF : Nibble) ≤ 0xF := by decide
theorem witness_drw_collides :
    ∃ t, exec (.drw 1 1 1) (State.reset.setDisp (Display.blank.put 0 0 true)) = .next t ∧
      (State.reset.setDisp (Display.blank.put 0 0 true)).disp.get 0 0 = true ∧ t.disp.get 0 0 = false := ⟨_, rfl, by decide, by decide⟩
theorem witness_drw_no_collision :
    ∃ t, exec (.drw 1 1 0) State.reset = .next t ∧ ¬∃ px py, State.reset.disp.get px py = true ∧ t.disp.get px py = false :=
  ⟨_, rfl, fun ⟨px, py, h, _⟩ => absurd (Display.get_blank px py) (by rw [show Display.blank = State.reset.disp from rfl, h]; decide)⟩
theorem witness_drw_twice :
    (1 : Nibble) ≠ vF ∧ (2 : Nibble) ≠ vF ∧ (∀ px py, State.reset.disp.get px py = false) ∧ State.reset.spriteBitAt 0 0 1 0 0 = true :=
  ⟨by decide, by decide, Display.get_blank, by decide⟩
theorem witness_key_number : (0xA : Nibble).toNat = ((withV [(5, 0x1A)]).getV 5).toNat % 16 := by decide
theorem witness_lowest_key :
    (State.reset.keySet 0 true).keyDown 0 = true ∧ (∀ j : Nibble, j < 0 → (State.reset.keySet 0 true).keyDown j = false) ∧
    ((State.reset.keySet 0xF true).keyDown 0xF = true ∧ ∀ j : Nibble, j < 0xF → (State.reset.keySet 0xF true).keyDown j = false) ∧
    (∀ k : Nibble, State.reset.keyDown k = false) := by
  refine ⟨by decide, fun j h => absurd h (by simp), ⟨by decide, fun j h => ?_⟩, fun k => by simp [State.keyDown, State.reset]⟩
  rw [State.keySet_keyDown, if_neg (fun e => by subst e; exact absurd h (by decide))]
  simp [State.keyDown, State.reset]
theorem witness_reset_regions : (0x04F : Addr).toNat < 0x50 ∧ 0x50 ≤ (0x050 : Addr).toNat ∧ 0x50 ≤ (0xFFF : Addr).toNat := by decide
theorem witness_trace : State.reset.status.state ≠ .faulted := by decide
theorem witness_equal_memories : Memory.wf [(0x300, 1)] = true ∧ ∀ a : Addr, Memory.read [(0x300, 1)] a.toNat = Memory.read [(0x300, 1)] a.toNat :=
  ⟨by decide, fun _ => rfl⟩
theorem witness_placed_word : State.reset.mem.wf = true ∧ decodeTableWord 16 0xFF65 = some (.ldRegs 0xF) := by decide
theorem witness_params_step : ∃ t, step State.reset = .next t := ⟨_, rfl⟩
theorem witness_waiting : State.reset.hold.status.state = .waitingForKey := rfl

end Sys2Proof.Tests
end

section
/-! SUPPORT. Which parts of the state each update and each instruction can write, as frames (`OnlyChanges`). -/

namespace Sys2Proof.Machine

/-! ## Frames of updates, and their composition -/

theorem Part.Same.trans {s u t : State} {p : Part} (h : p.Same s u) (h' : p.Same u t) : p.Same s t := by
  cases p with
  | faultRecord =>
    obtain ⟨hc, ho, hp⟩ := h
    obtain ⟨hc', ho', hp'⟩ := h'
    exact ⟨hc'.trans hc, ho'.trans ho, hp'.trans hp⟩
  | _ => exact Eq.trans h' h

theorem Part.Same.refl (s : State) (p : Part) : p.Same s s := by
  cases p with
  | faultRecord => exact ⟨rfl, rfl, rfl⟩
  | _ => rfl

theorem OnlyChanges.refl (c : Part → Prop) (s : State) : OnlyChanges c s s :=
  fun p _ => Part.Same.refl s p

theorem OnlyChanges.mono {c d : Part → Prop} {s t : State} (h : OnlyChanges c s t) (hcd : ∀ p, c p → d p) :
    OnlyChanges d s t :=
  fun p hp => h p (mt (hcd p) hp)

/-- One update after another changes what either of them changes. -/
theorem OnlyChanges.andThen {c d : Part → Prop} {s u t : State} (h : OnlyChanges c s u) (h' : OnlyChanges d u t) :
    OnlyChanges (fun p => d p ∨ c p) s t :=
  fun p hp => (h p (mt .inr hp)).trans (h' p (mt .inl hp))

section
variable (s : State)

theorem State.setV_onlyChanges (x : Nibble) (b : Byte) : OnlyChanges (· = .v x) s (s.setV x b) := by
  intro p hp
  cases p with
  | v r => simp [Part.Same, show r ≠ x from fun e => hp (e ▸ rfl)]
  | _ => simp [Part.Same]

theorem State.setResultFlag_onlyChanges (x : Nibble) (b f : Byte) :
    OnlyChanges (fun p => p = .v vF ∨ p = .v x) s (s.setResultFlag x b f) :=
  (s.setV_onlyChanges x b).andThen ((s.setV x b).setV_onlyChanges vF f)

theorem State.setLogic_onlyChanges (x : Nibble) (b : Byte) :
    OnlyChanges (fun p => (s.params.logicResetsVF = true ∧ p = .v vF) ∨ p = .v x) s (s.setLogic x b) := by
  unfold State.setLogic
  split
  next hl => exact (s.setResultFlag_onlyChanges x b 0).mono fun _ => Or.imp_left (⟨hl, ·⟩)
  next => exact (s.setV_onlyChanges x b).mono fun _ => .inr

/-- Loading n registers leaves those from n up as they were (44_memory_index.md R173). -/
theorem State.setRegs_loadedRegs_onlyChanges (n : Nat) :
    OnlyChanges (fun p => ∃ r : Nibble, r.toNat < n ∧ p = .v r) s (s.setRegs (s.loadedRegs n)) := by
  intro p hp
  cases p with
  | v r =>
    have hr : ¬r.toNat < n := fun hr => hp ⟨r, hr, rfl⟩
    simp [Part.Same, State.loadedRegs_get, hr, State.getV]
  | _ => simp [Part.Same]

theorem State.setI_onlyChanges (w : Word) : OnlyChanges (· = .i) s (s.setI w) := by
  intro p hp
  cases p with
  | i => exact absurd rfl hp
  | _ => simp [Part.Same]

theorem State.setDT_onlyChanges (b : Byte) : OnlyChanges (· = .dt) s (s.setDT b) := by
  intro p hp
  cases p with
  | dt => exact absurd rfl hp
  | _ => simp [Part.Same]

theorem State.setST_onlyChanges (b : Byte) : OnlyChanges (· = .st) s (s.setST b) := by
  intro p hp
  cases p with
  | st => exact absurd rfl hp
  | _ => simp [Part.Same]

theorem State.setMem_onlyChanges (m : Memory) : OnlyChanges (fun p => ∃ a, p = .mem a) s (s.setMem m) := by
  intro p hp
  cases p with
  | mem a => exact absurd ⟨a, rfl⟩ hp
  | _ => simp [Part.Same]

theorem State.setDisp_onlyChanges (d : Display) : OnlyChanges (fun p => ∃ px py, p = .pixel px py) s (s.setDisp d) := by
  intro p hp
  cases p with
  | pixel px py => exact absurd ⟨px, py, rfl⟩ hp
  | _ => simp [Part.Same]

theorem State.drawn_onlyChanges : OnlyChanges (fun p => p = .rndIn ∨ p = .rndDraws) s s.drawn := by
  intro p hp
  cases p with
  | rndIn => exact absurd (.inl rfl) hp
  | rndDraws => exact absurd (.inr rfl) hp
  | _ => simp [Part.Same]

theorem State.push_onlyChanges {w : Word} {t : State} (h : s.push w = some t) :
    OnlyChanges (fun p => p = .sp ∨ ∃ j, p = .stack j) s t := by
  obtain ⟨hlt, rfl⟩ := s.push_some h
  intro p hp
  cases p with
  | sp => exact absurd (.inl rfl) hp
  | stack j => exact absurd (.inr ⟨j, rfl⟩) hp
  | faultRecord => exact ⟨rfl, rfl, rfl⟩
  | _ => rfl

theorem State.pop_onlyChanges {w : Word} {t : State} (h : s.pop = some (w, t)) : OnlyChanges (· = .sp) s t := by
  have hpos : 0 < s.sp.val := Nat.pos_of_ne_zero fun h0 => by simp [s.pop_none.2 h0] at h
  rw [s.pop_of_pos hpos] at h
  cases h
  intro p hp
  cases p with
  | sp => exact absurd rfl hp
  | faultRecord => exact ⟨rfl, rfl, rfl⟩
  | _ => rfl

theorem State.finish_onlyChanges (a : Addr) : OnlyChanges Part.control s (s.finish a) := by
  intro p hp
  cases p with
  | pc => exact absurd (.inl rfl) hp
  | coreState => exact absurd (.inr rfl) hp
  | _ => simp [Part.Same]

theorem State.hold_onlyChanges : OnlyChanges (· = .coreState) s s.hold := by
  intro p hp
  cases p with
  | coreState => exact absurd rfl hp
  | _ => simp [Part.Same]

theorem State.raise_onlyChanges (code : FaultCode) (op : Word) (a : Addr) :
    OnlyChanges Part.status s (s.raise code op a) := by
  intro p hp
  cases p with
  | coreState => exact absurd (.inl rfl) hp
  | faultRecord => exact absurd (.inr rfl) hp
  | _ => simp [Part.Same]

end
end Sys2Proof.Machine

/-! ## The footprint of each instruction -/

namespace Sys2Proof
open Machine

/-- The parts an instruction can write beside those of its end, under the parameters `cfg` (10_state.md R28, R35). -/
def Instr.dest (cfg : Params) : Instr → Part → Prop
  | .sys _ | .jp _ | .jpV0 _ | .seImm _ _ | .sneImm _ _ | .seReg _ _ | .sneReg _ _ | .skp _ | .sknp _ => fun _ => False
  | .cls => fun p => ∃ px py, p = .pixel px py
  | .ret => fun p => p = .sp
  | .call _ => fun p => p = .sp ∨ ∃ j, p = .stack j
  | .ldImm x _ | .addImm x _ | .ldReg x _ | .ldVxDT x | .ldKey x => fun p => p = .v x
  | .orReg x _ | .andReg x _ | .xorReg x _ => fun p => (cfg.logicResetsVF = true ∧ p = .v vF) ∨ p = .v x
  | .addReg x _ | .subReg x _ | .subnReg x _ | .shr x _ | .shl x _ => fun p => p = .v vF ∨ p = .v x
  | .rnd x _ => fun p => p = .v x ∨ p = .rndIn ∨ p = .rndDraws
  | .ldI _ | .addI _ | .ldF _ => fun p => p = .i
  | .stRegs _ => fun p => p = .i ∨ ∃ a, p = .mem a
  | .ldRegs x => fun p => p = .i ∨ ∃ r : Nibble, r.toNat < x.toNat + 1 ∧ p = .v r
  | .drw _ _ _ => fun p => p = .v vF ∨ ∃ px py, p = .pixel px py
  | .ldDT _ => fun p => p = .dt
  | .ldST _ => fun p => p = .st
  | .ldB _ => fun p => ∃ a, p = .mem a

namespace Machine

/-- The parts the three ends of an instruction write (`State.finish`, `State.hold`, `State.raise`). -/
def Part.ending (p : Part) : Prop := p.control ∨ p.status

/-- What the writes `d` of an instruction and its end may change. -/
def endingOr (d : Part → Prop) (p : Part) : Prop := p.ending ∨ d p

theorem OnlyChanges.finish {d : Part → Prop} {s u : State} (h : OnlyChanges d s u) (a : Addr) :
    OnlyChanges (endingOr d) s (u.finish a) :=
  (h.andThen (u.finish_onlyChanges a)).mono fun _ => Or.imp_left .inl

theorem State.raise_endingOr (d : Part → Prop) (s : State) (code : FaultCode) (op : Word) (a : Addr) :
    OnlyChanges (endingOr d) s (s.raise code op a) :=
  (s.raise_onlyChanges code op a).mono fun _ hp => .inl (.inr hp)

theorem State.hold_endingOr (d : Part → Prop) (s : State) : OnlyChanges (endingOr d) s s.hold :=
  s.hold_onlyChanges.mono fun _ hp => .inl (.inl (.inr hp))

/-- An instruction changes nothing but its footprint and what its end writes. -/
theorem exec_onlyChanges {i : Instr} {s t : State} (h : exec i s = .next t) :
    OnlyChanges (endingOr (i.dest s.params)) s t := by
  cases i with
  | sys nnn =>
    simp only [exec, execSys] at h
    split at h <;> cases h
    · exact s.raise_endingOr _ _ _ _
    · exact (OnlyChanges.refl _ s).finish _
  | ret =>
    simp only [exec, execRet] at h
    split at h <;> cases h
    · exact s.raise_endingOr _ _ _ _
    next hpop => exact (s.pop_onlyChanges hpop).finish _
  | call nnn =>
    simp only [exec, execCall] at h
    split at h <;> cases h
    · exact s.raise_endingOr _ _ _ _
    next hpush => exact (s.push_onlyChanges hpush).finish _
  | ldKey x =>
    simp only [exec, execLdKey] at h
    split at h <;> cases h
    · exact (s.setV_onlyChanges x _).finish _
    · exact s.hold_endingOr _
  | jp _ | jpV0 _ | seImm _ _ | sneImm _ _ | seReg _ _ | sneReg _ _ | skp _ | sknp _ =>
    cases h; exact (OnlyChanges.refl _ s).finish _
  | cls => cases h; exact (s.setDisp_onlyChanges _).finish _
  | ldImm x _ | addImm x _ | ldReg x _ | ldVxDT x => cases h; exact (s.setV_onlyChanges x _).finish _
  | orReg x _ | andReg x _ | xorReg x _ => cases h; exact (s.setLogic_onlyChanges x _).finish _
  | addReg x _ | subReg x _ | subnReg x _ | shr x _ | shl x _ =>
    cases h; exact (s.setResultFlag_onlyChanges x _ _).finish _
  | rnd x _ => cases h; exact (s.drawn_onlyChanges.andThen (s.drawn.setV_onlyChanges x _)).finish _
  | ldI _ | addI _ | ldF _ => cases h; exact (s.setI_onlyChanges _).finish _
  | stRegs _ => cases h; exact ((s.setMem_onlyChanges _).andThen (State.setI_onlyChanges _ _)).finish _
  | ldRegs x => cases h; exact ((s.setRegs_loadedRegs_onlyChanges _).andThen (State.setI_onlyChanges _ _)).finish _
  | drw _ _ _ => cases h; exact ((s.setDisp_onlyChanges _).andThen (State.setV_onlyChanges _ vF _)).finish _
  | ldDT _ => cases h; exact (s.setDT_onlyChanges _).finish _
  | ldST _ => cases h; exact (s.setST_onlyChanges _).finish _
  | ldB _ => cases h; exact (s.setMem_onlyChanges _).finish _

/-- A part that an instruction changed, other than those of its end, is in its footprint. -/
theorem dest_of_exec_changes {i : Instr} {s t : State} {p : Part} (h : exec i s = .next t) (hp : ¬p.ending)
    (hne : ¬p.Same s t) : i.dest s.params p := by
  refine Classical.byContradiction fun hd => ?_
  exact hne (exec_onlyChanges h p (not_or.2 ⟨hp, hd⟩))

end Machine

/-- The instructions with a stack entry in their footprint: CALL (10_state.md R28). -/
theorem Instr.call_of_dest_stack {cfg : Params} {i : Instr} {j : Fin 16} (h : i.dest cfg (.stack j)) :
    ∃ nnn, i = .call nnn := by
  cases i with
  | call nnn => exact ⟨nnn, rfl⟩
  | _ => simp [Instr.dest] at h

/-- The instructions with SP in their footprint: CALL and RET (10_state.md R28). -/
theorem Instr.call_or_ret_of_dest_sp {cfg : Params} {i : Instr} (h : i.dest cfg .sp) :
    (∃ nnn, i = .call nnn) ∨ i = .ret := by
  cases i with
  | call nnn => exact .inl ⟨nnn, rfl⟩
  | ret => exact .inr rfl
  | _ => simp [Instr.dest] at h

/-- LD Vx, [I] reaches VF only as its last register. -/
theorem eq_vF_of_le {x : Nibble} (h : vF.toNat < x.toNat + 1) : x = vF := by
  have : vF.toNat = 15 := rfl
  have hx := x.isLt
  exact BitVec.eq_of_toNat_eq (by omega)

end Sys2Proof

namespace Sys2Proof.Certificates
open Sys2Proof Sys2Proof.Machine

/-- Settles O19: the footprints with a stack entry or SP. -/
theorem stackWrittenOnlyByCallAndRet : Obligations.StackWrittenOnlyByCallAndRet := by
  intro i s t h
  have hending : ∀ p : Part, p = .sp ∨ (∃ j, p = .stack j) → ¬p.ending := by
    rintro p (rfl | ⟨j, rfl⟩) <;> simp [Part.ending, Part.control, Part.status]
  constructor
  · rintro ⟨j, hj⟩
    exact Instr.call_of_dest_stack (dest_of_exec_changes (p := .stack j) h (hending _ (.inr ⟨j, rfl⟩)) hj)
  · intro hsp
    exact Instr.call_or_ret_of_dest_sp (dest_of_exec_changes (p := .sp) h (hending _ (.inl rfl)) hsp)

/-- Settles O18: the footprints with VF, as the flag or as the destination. -/
theorem writersOfVF : Obligations.WritersOfVF := by
  intro i s t h hne
  have hd : i.dest s.params (.v vF) :=
    dest_of_exec_changes h (by simp [Part.ending, Part.control, Part.status]) hne
  cases i with
  | addReg x y | subReg x y | subnReg x y | shr x y | shl x y => exact .inl ⟨x, y, by simp⟩
  | drw x y n => exact .inr (.inl ⟨x, y, n, rfl⟩)
  | orReg x y | andReg x y | xorReg x y =>
    obtain ⟨hl, -⟩ | hx := hd
    · exact .inr (.inr (.inl ⟨hl, x, y, by simp⟩))
    · cases hx; exact .inr (.inr (.inr (.inl ⟨y, by simp⟩)))
  | ldReg x y => cases hd; simp
  | ldImm x kk | addImm x kk | ldVxDT x | ldKey x => cases hd; simp
  | rnd x kk =>
    have hx : vF = x := by simpa [Instr.dest] using hd
    subst hx; simp
  | ldRegs x =>
    obtain ⟨r, hr, hv⟩ : ∃ r : Nibble, r.toNat < x.toNat + 1 ∧ Part.v vF = .v r := by simpa [Instr.dest] using hd
    cases hv
    simp [eq_vF_of_le hr]
  | _ => simp [Instr.dest] at hd

end Sys2Proof.Certificates
end

section
/-! SUPPORT. The step of a core whose fetch decodes, the writers of memory, and the block store and load at I. -/

namespace Sys2Proof

/-- A table word that decodes is read by the decoder of words (30_encoding.md R80). -/
theorem decodeWord_of_decodeTableWord {nbits w : Nat} {i : Instr} (h : decodeTableWord nbits w = some i) :
    decodeWord (BitVec.ofNat 16 (w % 2 ^ nbits)) = .ins i := by
  simp only [decodeTableWord, decodeBytes, wordOfBytes_bytes] at h
  cases hd : decodeWord (BitVec.ofNat 16 (w % 2 ^ nbits)) with
  | ins j => rw [hd] at h; exact congrArg _ (Option.some.inj h)
  | unknown why => simp [hd] at h

/-- The instructions with a byte of memory in their footprint: LD B and LD [I] (20_memory.md R51). -/
theorem Instr.ldB_or_stRegs_of_dest_mem {cfg : Params} {i : Instr} {a : Addr} (h : i.dest cfg (.mem a)) :
    ∃ x, i = .ldB x ∨ i = .stRegs x := by
  cases i with
  | ldB x => exact ⟨x, .inl rfl⟩
  | stRegs x => exact ⟨x, .inr rfl⟩
  | _ => simp [Instr.dest] at h

namespace Machine

/-- With no other operation first and no latched fault, the step is the instruction that the fetched word decodes to. -/
theorem step_of_decode_fetch {s : State} {i : Instr} (hn : s.CoreNext) (hf : s.status.state ≠ .faulted)
    (hd : decodeWord s.fetch = .ins i) : step s = exec i s := by
  have hstep : step s = s.cpuStep := by
    obtain ⟨-, h⟩ | ⟨op, rest, h, -⟩ := step_cases s
    · exact h
    · cases hn.symm.trans h
  obtain ⟨h, -⟩ | ⟨-, ⟨why, h⟩, -⟩ | ⟨-, j, h, hexec⟩ := s.cpuStep_cases
  · exact absurd h hf
  · cases hd.symm.trans h
  · cases hd.symm.trans h; exact hstep.trans hexec

/-- A core with a word placed is not Faulted. -/
theorem State.placed_state_ne_faulted (s : State) (op : Word) : (s.placed op).status.state ≠ .faulted := by
  rw [State.placed_status]
  split
  · decide
  · assumption

/-! ## Completion with the PC past the instruction -/

theorem State.done_completedAt (u : State) : u.done.CompletedAt (u.pc + 2) := ⟨rfl, rfl⟩

theorem OnlyChanges.done {d : Part → Prop} {s u : State} (h : OnlyChanges d s u) :
    OnlyChanges (fun p => p.control ∨ d p) s u.done :=
  h.andThen (u.finish_onlyChanges _)

/-! ## A block at I (44_memory_index.md R172, R173) -/

/-- The masked address of `I + k` is the sum modulo 0x1000 (20_memory.md R52). -/
theorem State.maskAddr_atI (s : State) (k : Nat) : maskAddr (s.atI k) = BitVec.ofNat 12 ((s.i.toNat + k) % 0x1000) := by
  apply BitVec.eq_of_toNat_eq
  simp only [maskAddr, State.atI, BitVec.toNat_setWidth, BitVec.toNat_add, BitVec.toNat_ofNat]
  omega

/-- A block of bytes written at I. -/
def State.storeAtI (s : State) (bs : List Byte) : State := s.setMem (s.mem.putBytes s.i bs)

section
variable {s : State} (hm : s.mem.wf = true) (bs : List Byte)
include hm

theorem State.storeAtI_byteAt (hlen : bs.length ≤ 4096) {k : Nat} (hk : k < bs.length) :
    (s.storeAtI bs).byteAt (maskAddr (s.atI k)) = bs[k] :=
  Memory.read_putBytes_at bs s.mem s.i hm hlen k hk

/-- A block written at I changes the bytes at its masked addresses and nothing else. -/
theorem State.storeAtI_onlyChanges :
    OnlyChanges (fun p => ∃ k, k < bs.length ∧ p = .mem (maskAddr (s.atI k))) s (s.storeAtI bs) := by
  intro p hp
  cases p with
  | mem a => exact Memory.read_putBytes_other bs s.mem s.i a hm fun k hk ha => hp ⟨k, hk, congrArg Part.mem ha⟩
  | _ => exact s.setMem_onlyChanges _ _ (by simp)

end

section
variable (s : State) (x : Nibble)

theorem exec_ldB : exec (.ldB x) s = .next (s.storeAtI (bcdDigits (s.getV x))).done := rfl

theorem exec_stRegs : exec (.stRegs x) s = .next ((s.storeAtI (s.regsUpTo x)).setI (s.iAfterBlock x)).done := rfl

theorem exec_ldRegs :
    exec (.ldRegs x) s = .next ((s.setRegs (s.loadedRegs (x.toNat + 1))).setI (s.iAfterBlock x)).done := rfl

/-- The I that a block instruction computes meets the description by the parameters. -/
theorem IndexAfterBlock.of_i_eq {t : State} (h : t.i = s.iAfterBlock x) : IndexAfterBlock s x t := by
  refine ⟨fun hinc => ?_, fun hinc hw => ?_, fun hinc hw => ?_⟩ <;> rw [h, State.iAfterBlock]
  · simp [hinc]
  · simp [hinc, State.wrapI, hw]
  · simp [hinc, State.wrapI, hw]; omega

end
end Machine
end Sys2Proof

namespace Sys2Proof.Certificates
open Sys2Proof Sys2Proof.Machine

/-- Settles O6: the two bytes at PC are the word fetched. -/
theorem stepRunsTheDecodedInstruction : Obligations.StepRunsTheDecodedInstruction := by
  intro s i hn hf h
  have hd : decodeWord (wordOfBytes (s.byteAt s.pc) (s.byteAt (s.pc + 1))) = .ins i := congrArg Prod.fst h
  exact step_of_decode_fetch hn hf (s.fetch_eq ▸ hd)

/-- Settles O59: the placed word is the word fetched, on a core that is not Faulted. -/
theorem placedWordRunsNext : Obligations.PlacedWordRunsNext := by
  intro s nbits w i hm h
  refine step_of_decode_fetch rfl (s.placed_state_ne_faulted _) ?_
  rw [State.withFetchWord, s.placed_fetch _ hm]
  exact decodeWord_of_decodeTableWord h

/-- Settles O20: the footprints with a byte of memory; a tick, a key and a supplied byte leave memory as it is. -/
theorem memoryWriters : Obligations.MemoryWriters := by
  constructor
  · rintro i s t h ⟨a, ha⟩
    have hend : ¬(Part.mem a).ending := by simp [Part.ending, Part.control, Part.status]
    exact Instr.ldB_or_stRegs_of_dest_mem (dest_of_exec_changes h hend ha)
  · rintro op s t h ⟨a, ha⟩
    cases op with
    | step => exact .inl rfl
    | reset => exact .inr (.inl rfl)
    | load image => exact .inr (.inr ⟨image, rfl⟩)
    | tick | keySet _ _ | rndSupply _ => cases h; exact absurd rfl ha

/-- Settles O43: the block store of V0 to Vx, then I. -/
theorem storeRegisters : Obligations.StoreRegisters := by
  intro s x hm
  have hlen := s.regsUpTo_length x
  have hframe := (State.storeAtI_onlyChanges hm (s.regsUpTo x)).andThen (State.setI_onlyChanges _ (s.iAfterBlock x))
  refine ⟨_, exec_stRegs s x, State.done_completedAt _, fun k hk => ?_, IndexAfterBlock.of_i_eq s x rfl,
    hframe.done.mono ?_⟩
  · have hk' : k.toNat < (s.regsUpTo x).length := by have : k.toNat ≤ x.toNat := hk; omega
    have hx := x.isLt
    calc (s.storeAtI (s.regsUpTo x)).byteAt (maskAddr (s.atI k.toNat))
        = (s.regsUpTo x)[k.toNat] := State.storeAtI_byteAt hm _ (by omega) hk'
      _ = s.getV k := s.regsUpTo_get x k.toNat hk'
  · rintro p (hc | rfl | ⟨k, hk, rfl⟩)
    · exact .inl (.inl hc)
    · exact .inl (.inr (by simp))
    · have hx := x.isLt
      have hkx : (BitVec.ofNat 4 k).toNat = k := by rw [BitVec.toNat_ofNat]; omega
      exact .inr ⟨BitVec.ofNat 4 k, by rw [BitVec.le_def]; omega, by rw [hkx]⟩

/-- Settles O44: the block load into V0 to Vx, then I. -/
theorem loadRegisters : Obligations.LoadRegisters := by
  intro s x
  have hframe := (s.setRegs_loadedRegs_onlyChanges (x.toNat + 1)).andThen (State.setI_onlyChanges _ (s.iAfterBlock x))
  refine ⟨_, exec_ldRegs s x, State.done_completedAt _, fun k hk => ?_, IndexAfterBlock.of_i_eq s x rfl,
    hframe.done.mono ?_⟩
  · have hk' : k.toNat < x.toNat + 1 := Nat.lt_succ_of_le hk
    calc (s.loadedRegs (x.toNat + 1))[k.toNat]
        = s.byteAt (maskAddr (s.atI k.toNat)) := by rw [s.loadedRegs_get _ _ k.isLt, if_pos hk']; rfl
      _ = s.byteAt (BitVec.ofNat 12 ((s.i.toNat + k.toNat) % 0x1000)) := by rw [s.maskAddr_atI]
  · rintro p (hc | rfl | ⟨k, hk, rfl⟩)
    · exact .inl (.inl hc)
    · exact .inl (.inr (by simp))
    · exact .inr ⟨k, Nat.le_of_lt_succ hk, rfl⟩

/-- Settles O51: the block store of the three digits. -/
theorem storeBcdDigits : Obligations.StoreBcdDigits := by
  intro s x hm
  have hlen : (bcdDigits (s.getV x)).length = 3 := rfl
  have hv := (s.getV x).isLt
  have hdigit : ∀ k (hk : k < 3), ((s.storeAtI (bcdDigits (s.getV x))).byteAt (maskAddr (s.atI k))).toNat =
      ((bcdDigits (s.getV x))[k]).toNat :=
    fun k hk => congrArg _ (State.storeAtI_byteAt hm _ (by omega) hk)
  refine ⟨_, exec_ldB s x, State.done_completedAt _, (hdigit 0 (by omega)).trans ?_, (hdigit 1 (by omega)).trans ?_,
    (hdigit 2 (by omega)).trans ?_, (State.storeAtI_onlyChanges hm _).done.mono ?_⟩
  · simp [bcdDigits]; omega
  · simp [bcdDigits]; omega
  · simp [bcdDigits]; omega
  · rintro p (hc | ⟨k, hk, rfl⟩)
    · exact .inl hc
    · have : k = 0 ∨ k = 1 ∨ k = 2 := by omega
      obtain rfl | rfl | rfl := this <;> exact .inr (by simp)

end Sys2Proof.Certificates
end

section
/-! SUPPORT. An instruction, and the core's step, on a state with another ST (30_encoding.md R88): the reads and the updates
they are made of commute with setting ST. -/

namespace Sys2Proof.Machine

section
variable (s : State) (b : Byte)

@[simp] theorem State.setST_fetch : (s.setST b).fetch = s.fetch := rfl

@[simp] theorem State.setST_lowestKey : (s.setST b).lowestKey = s.lowestKey := rfl

@[simp] theorem State.setST_pcNext : (s.setST b).pcNext = s.pcNext := rfl

theorem State.setLogic_setST (x : Nibble) (r : Byte) : (s.setST b).setLogic x r = (s.setLogic x r).setST b := by
  unfold State.setLogic
  rw [State.setST_params]
  split <;> rfl

theorem State.push_setST (w : Word) : (s.setST b).push w = (s.push w).map (·.setST b) := by
  by_cases h : s.sp.val < 16
  · rw [s.push_of_lt w h, (s.setST b).push_of_lt w h]; rfl
  · have hfull : s.sp.val = 16 := by omega
    rw [(s.push_none w).2 hfull, ((s.setST b).push_none w).2 hfull]; rfl

theorem State.pop_setST : (s.setST b).pop = s.pop.map (Prod.map id (·.setST b)) := by
  by_cases h : s.sp.val = 0
  · rw [s.pop_none.2 h, (s.setST b).pop_none.2 h]; rfl
  · have hpos : 0 < s.sp.val := by omega
    rw [s.pop_of_pos hpos, (s.setST b).pop_of_pos hpos]; rfl

end

/-- No instruction reads ST: run with another ST, it makes the same state but for ST. -/
theorem exec_setST {i : Instr} {s t : State} (b : Byte) (h : exec i s = .next t) :
    ∃ c, exec i (s.setST b) = .next (t.setST c) := by
  cases i with
  | ldST x => cases h; exact ⟨s.getV x, rfl⟩
  | sys nnn =>
    refine ⟨b, ?_⟩
    simp only [exec, execSys, State.setST_params] at h ⊢
    split at h <;> cases h <;> rfl
  | ret =>
    refine ⟨b, ?_⟩
    simp only [exec, execRet, State.pop_setST] at h ⊢
    split at h <;> cases h
    next hpop => rw [hpop]; rfl
    next hpop => rw [hpop]; rfl
  | call nnn =>
    refine ⟨b, ?_⟩
    simp only [exec, execCall, State.setST_pcNext, State.push_setST] at h ⊢
    split at h <;> cases h
    next hpush => rw [hpush]; rfl
    next hpush => rw [hpush]; rfl
  | ldKey x =>
    refine ⟨b, ?_⟩
    simp only [exec, execLdKey, State.setST_lowestKey] at h ⊢
    split at h <;> cases h <;> rfl
  | orReg x y | andReg x y | xorReg x y =>
    cases h
    exact ⟨b, congrArg (Host.Outcome.next ∘ State.done) (s.setLogic_setST b x _)⟩
  | _ => cases h; exact ⟨b, rfl⟩

/-- The core's step does not read ST. -/
theorem State.cpuStep_setST {s t : State} (b : Byte) (h : s.cpuStep = .next t) :
    ∃ c, (s.setST b).cpuStep = .next (t.setST c) := by
  obtain ⟨hf, hs⟩ | ⟨hf, ⟨why, hd⟩, hs⟩ | ⟨hf, i, hd, hs⟩ := s.cpuStep_cases <;> rw [hs] at h
  · cases h; exact ⟨b, by simp [State.cpuStep, hf]⟩
  · cases h; exact ⟨b, by simp [State.cpuStep, hf, hd]; rfl⟩
  · simpa [State.cpuStep, hf, hd] using exec_setST b h

end Sys2Proof.Machine

namespace Sys2Proof.Certificates
open Sys2Proof Sys2Proof.Machine

/-- Settles O23: the step from the other ST ends in the same state with some ST. -/
theorem soundTimerReachesNothingElse : Obligations.SoundTimerReachesNothingElse := by
  intro s t u b ht hu
  obtain ⟨c, hc⟩ := State.cpuStep_setST b ht
  cases hc.symm.trans hu
  exact t.setST_onlyChanges c

end Sys2Proof.Certificates
end

section
/-! SUPPORT. An instruction, and the core's step, on a state with another `status.state` (40_step.md R105): every end of an
instruction (`finish`, `hold`, `raise`) overwrites that field, and no instruction reads it. -/

namespace Sys2Proof.Machine

/-- `status.state <- c`, nothing else. -/
def State.setCoreState (s : State) (c : CoreState) : State := { s with status := { s.status with state := c } }

section
variable (s : State) (c : CoreState)

@[simp] theorem State.setCoreState_state : (s.setCoreState c).status.state = c := rfl

@[simp] theorem State.setCoreState_pc : (s.setCoreState c).pc = s.pc := rfl

@[simp] theorem State.setCoreState_params : (s.setCoreState c).params = s.params := rfl

@[simp] theorem State.setCoreState_fetch : (s.setCoreState c).fetch = s.fetch := rfl

@[simp] theorem State.setCoreState_pcNext : (s.setCoreState c).pcNext = s.pcNext := rfl

@[simp] theorem State.setCoreState_lowestKey : (s.setCoreState c).lowestKey = s.lowestKey := rfl

@[simp] theorem State.setCoreState_raise (code : FaultCode) (op : Word) (a : Addr) :
    (s.setCoreState c).raise code op a = s.raise code op a := rfl

theorem State.setLogic_done_setCoreState (x : Nibble) (r : Byte) :
    ((s.setCoreState c).setLogic x r).done = (s.setLogic x r).done := by
  unfold State.setLogic
  rw [State.setCoreState_params]
  split <;> rfl

theorem State.push_setCoreState (w : Word) : (s.setCoreState c).push w = (s.push w).map (·.setCoreState c) := by
  by_cases h : s.sp.val < 16
  · rw [s.push_of_lt w h, (s.setCoreState c).push_of_lt w h]; rfl
  · have hfull : s.sp.val = 16 := by omega
    rw [(s.push_none w).2 hfull, ((s.setCoreState c).push_none w).2 hfull]; rfl

theorem State.pop_setCoreState : (s.setCoreState c).pop = s.pop.map (Prod.map id (·.setCoreState c)) := by
  by_cases h : s.sp.val = 0
  · rw [s.pop_none.2 h, (s.setCoreState c).pop_none.2 h]; rfl
  · have hpos : 0 < s.sp.val := by omega
    rw [s.pop_of_pos hpos, (s.setCoreState c).pop_of_pos hpos]; rfl

/-- An instruction ends the same whatever `status.state` it starts from. -/
theorem exec_setCoreState (i : Instr) : exec i (s.setCoreState c) = exec i s := by
  cases i with
  | sys nnn =>
    simp only [exec, execSys, State.setCoreState_params]
    split <;> rfl
  | ret =>
    simp only [exec, execRet, State.pop_setCoreState]
    cases s.pop <;> rfl
  | call nnn =>
    simp only [exec, execCall, State.setCoreState_pcNext, State.push_setCoreState]
    cases s.push (s.pcNext.setWidth 16) <;> rfl
  | ldKey x =>
    simp only [exec, execLdKey, State.setCoreState_lowestKey]
    split <;> rfl
  | orReg x y | andReg x y | xorReg x y =>
    exact congrArg Host.Outcome.next (s.setLogic_done_setCoreState c x _)
  | _ => rfl

/-- Of `status.state`, the core's step reads only whether it is Faulted. -/
theorem State.cpuStep_setCoreState (hs : s.status.state ≠ .faulted) (hc : c ≠ .faulted) :
    (s.setCoreState c).cpuStep = s.cpuStep := by
  obtain ⟨hf, -⟩ | ⟨-, ⟨why, hd⟩, h⟩ | ⟨-, i, hd, h⟩ := s.cpuStep_cases
  · exact absurd hf hs
  · rw [h]; simp [State.cpuStep, hc, hd]
  · rw [h]; simp [State.cpuStep, hc, hd, exec_setCoreState]

end
end Sys2Proof.Machine

namespace Sys2Proof.Certificates
open Sys2Proof Sys2Proof.Machine

/-- Settles O14: WaitingForKey and Running are both not Faulted, which is all the step reads of `status.state`. -/
theorem waitingStepIsOrdinary : Obligations.WaitingStepIsOrdinary := by
  intro s hw
  have hs : s.status.state ≠ .faulted := by simp [hw]
  exact (s.cpuStep_setCoreState .running hs (by decide)).symm

end Sys2Proof.Certificates
end

section
/-! SUPPORT. CLS and JP (41_control_flow.md R111, R113) as their updates, and an instruction's completion at any target. -/

namespace Sys2Proof.Machine

variable (s : State)

theorem exec_cls : exec .cls s = .next (s.setDisp Display.blank).done := rfl

theorem exec_jp (nnn : Addr) : exec (.jp nnn) s = .next (s.finish nnn) := rfl

theorem State.finish_completedAt (a : Addr) : (s.finish a).CompletedAt a := ⟨rfl, rfl⟩

end Sys2Proof.Machine

namespace Sys2Proof.Certificates
open Sys2Proof Sys2Proof.Machine

/-- Settles O25: the display becomes the blank one, and replacing it writes pixels only. -/
theorem clsClearsTheDisplay : Obligations.ClsClearsTheDisplay := by
  intro s
  refine ⟨_, exec_cls s, State.done_completedAt _, Display.get_blank, (s.setDisp_onlyChanges _).done.mono ?_⟩
  rintro p (hcontrol | hpixel)
  · exact .inl (.inl hcontrol)
  · exact .inr hpixel

/-- Settles O27: a jump is the instruction's end alone, at the target nnn. -/
theorem jpSetsThePC : Obligations.JpSetsThePC := by
  intro s nnn
  have hframe : OnlyChanges (writes []) s (s.finish nnn) := (s.finish_onlyChanges nnn).mono fun _ => .inl
  exact ⟨_, exec_jp s nnn, s.finish_completedAt nnn, hframe⟩

end Sys2Proof.Certificates
end

section
/-! SUPPORT. The conditional skips (42_skip.md R130 to R133) as their shared end, a finish at the PC the condition picks. -/

namespace Sys2Proof.Machine

section
variable (s : State)

theorem exec_seImm (x : Nibble) (kk : Byte) : exec (.seImm x kk) s = .next (s.skipIf (s.getV x == kk)) := rfl

theorem exec_sneImm (x : Nibble) (kk : Byte) : exec (.sneImm x kk) s = .next (s.skipIf (s.getV x != kk)) := rfl

theorem exec_seReg (x y : Nibble) : exec (.seReg x y) s = .next (s.skipIf (s.getV x == s.getV y)) := rfl

theorem exec_sneReg (x y : Nibble) : exec (.sneReg x y) s = .next (s.skipIf (s.getV x != s.getV y)) := rfl

/-- The PC after a skip, by the proposition `p` that the computed condition `c` decides. -/
theorem State.skipIf_completedAt {c : Bool} {p : Prop} [Decidable p] (hc : c = true ↔ p) :
    (s.skipIf c).CompletedAt (if p then s.pc + 4 else s.pc + 2) := by
  rw [s.skipIf_eq]
  by_cases h : p
  · rw [if_pos h, if_pos (hc.mpr h)]
    exact s.finish_completedAt _
  · rw [if_neg h, if_neg (mt hc.mp h)]
    exact s.finish_completedAt _

/-- A skip, taken or not, writes what an instruction's end writes. -/
theorem State.skipIf_onlyChanges (c : Bool) : OnlyChanges (writes []) s (s.skipIf c) := by
  rw [s.skipIf_eq]
  exact (s.finish_onlyChanges _).mono fun _ => .inl

end
end Sys2Proof.Machine

namespace Sys2Proof.Certificates
open Sys2Proof Sys2Proof.Machine

/-- Settles O31: the two skips finish on the comparison of Vx with kk and on its negation. -/
theorem skipOnImmediate : Obligations.SkipOnImmediate := by
  intro s x kk
  constructor
  · exact ⟨_, exec_seImm s x kk, s.skipIf_completedAt beq_iff_eq, s.skipIf_onlyChanges _⟩
  · exact ⟨_, exec_sneImm s x kk, s.skipIf_completedAt bne_iff_ne, s.skipIf_onlyChanges _⟩

/-- Settles O32: the two skips finish on the comparison of Vx with Vy and on its negation. -/
theorem skipOnRegister : Obligations.SkipOnRegister := by
  intro s x y
  constructor
  · exact ⟨_, exec_seReg s x y, s.skipIf_completedAt beq_iff_eq, s.skipIf_onlyChanges _⟩
  · exact ⟨_, exec_sneReg s x y, s.skipIf_completedAt bne_iff_ne, s.skipIf_onlyChanges _⟩

end Sys2Proof.Certificates
end

section
/-! SUPPORT. LD Vx, kk, LD Vx, Vy and ADD Vx, Vy (43_load_arith.md R140, R142, R146) as their updates, and what an instruction
that writes one register, or a result and a flag, has written once it is done. -/

namespace Sys2Proof.Machine

section
variable (s : State) (x : Nibble)

theorem exec_ldImm (kk : Byte) : exec (.ldImm x kk) s = .next (s.setV x kk).done := rfl

theorem exec_ldReg (y : Nibble) : exec (.ldReg x y) s = .next (s.setV x (s.getV y)).done := rfl

theorem exec_addReg (y : Nibble) :
    exec (.addReg x y) s = .next (s.setResultFlag x (BitVec.ofNat 8 ((s.getV x).toNat + (s.getV y).toNat))
      (carryFlag (s.getV x) (s.getV y))).done := rfl

@[simp] theorem State.done_getV (r : Nibble) : s.done.getV r = s.getV r := rfl

theorem State.setV_done_getV (b : Byte) : (s.setV x b).done.getV x = b := by simp

theorem State.setV_done_onlyChanges (b : Byte) : OnlyChanges (writes [.v x]) s (s.setV x b).done := by
  refine (s.setV_onlyChanges x b).done.mono ?_
  rintro p (hcontrol | rfl)
  · exact .inl hcontrol
  · exact .inr (by simp)

/-- Below VF, the result is not overwritten by the flag (00_scope.md R15). -/
theorem State.setResultFlag_done_getV_result (hx : x ≠ vF) (b f : Byte) : (s.setResultFlag x b f).done.getV x = b := by
  simp [hx]

theorem State.setResultFlag_done_getV_vF (b f : Byte) : (s.setResultFlag x b f).done.getV vF = f := by simp

theorem State.setResultFlag_done_onlyChanges (b f : Byte) :
    OnlyChanges (writes [.v x, .v vF]) s (s.setResultFlag x b f).done := by
  refine (s.setResultFlag_onlyChanges x b f).done.mono ?_
  rintro p (hcontrol | rfl | rfl)
  · exact .inl hcontrol
  · exact .inr (by simp)
  · exact .inr (by simp)

end

theorem flag_decide (p : Prop) [Decidable p] : flag (decide p) = if p then 1 else 0 := by simp [flag]

theorem carryFlag_eq (a b : Byte) : carryFlag a b = if a.toNat + b.toNat > 255 then 1 else 0 :=
  flag_decide (255 < a.toNat + b.toNat)

end Sys2Proof.Machine

namespace Sys2Proof.Certificates
open Sys2Proof Sys2Proof.Machine

/-- Settles O36: the flag is written after the sum, so VF holds the carry even when x is VF. -/
theorem addSetsCarry : Obligations.AddSetsCarry := by
  intro s x y
  refine ⟨_, exec_addReg s x y, State.done_completedAt _, fun hx => ?_, ?_, s.setResultFlag_done_onlyChanges x _ _⟩
  · rw [s.setResultFlag_done_getV_result x hx, BitVec.toNat_ofNat]
  · rw [s.setResultFlag_done_getV_vF, carryFlag_eq]

/-- Settles O33: both loads are one register write, of kk or of Vy as it was. -/
theorem loadRegister : Obligations.LoadRegister := by
  intro s x y kk
  constructor
  · exact ⟨_, exec_ldImm s x kk, State.done_completedAt _, s.setV_done_getV x _, s.setV_done_onlyChanges x _⟩
  · exact ⟨_, exec_ldReg s x y, State.done_completedAt _, s.setV_done_getV x _, s.setV_done_onlyChanges x _⟩

end Sys2Proof.Certificates
end

section
/-! SUPPORT. LD I, addr (44_memory_index.md R170) as its update, and what an instruction that writes I alone has written
once it is done. -/

namespace Sys2Proof.Machine

section
variable (s : State)

theorem exec_ldI (nnn : Addr) : exec (.ldI nnn) s = .next (s.setI (nnn.setWidth 16)).done := rfl

theorem State.setI_done_i (w : Word) : (s.setI w).done.i = w := rfl

theorem State.setI_done_onlyChanges (w : Word) : OnlyChanges (writes [.i]) s (s.setI w).done := by
  refine (s.setI_onlyChanges w).done.mono ?_
  rintro p (hcontrol | rfl)
  · exact .inl hcontrol
  · exact .inr (by simp)

end
end Sys2Proof.Machine

namespace Sys2Proof.Certificates
open Sys2Proof Sys2Proof.Machine

/-- Settles O41: I is the address nnn, whose 12 bits the extension to 16 keeps. -/
theorem loadIndex : Obligations.LoadIndex := by
  intro s nnn
  refine ⟨_, exec_ldI s nnn, State.done_completedAt _, ?_, s.setI_done_onlyChanges _⟩
  rw [s.setI_done_i, BitVec.toNat_setWidth_of_le (by decide)]

end Sys2Proof.Certificates
end

section
/-! SUPPORT. The timer instructions (47_timers.md R200 to R202) as their updates, the frame of an instruction that writes one
part, and the sound output (60_exceptions.md R244). -/

namespace Sys2Proof.Machine

/-- An instruction's end after an update of the one part `q`. -/
theorem OnlyChanges.done_writes {q : Part} {s u : State} (h : OnlyChanges (· = q) s u) :
    OnlyChanges (writes [q]) s u.done :=
  h.done.mono fun _ => Or.imp_right List.mem_singleton.mpr

section
variable (s : State) (x : Nibble)

theorem exec_ldVxDT : exec (.ldVxDT x) s = .next (s.setV x s.dt).done := rfl

theorem exec_ldDT : exec (.ldDT x) s = .next (s.setDT (s.getV x)).done := rfl

theorem exec_ldST : exec (.ldST x) s = .next (s.setST (s.getV x)).done := rfl

theorem State.setDT_done_dt (b : Byte) : (s.setDT b).done.dt = b := rfl

theorem State.setST_done_st (b : Byte) : (s.setST b).done.st = b := rfl

theorem State.soundOn_iff : s.soundOn = true ↔ s.st ≠ 0 := bne_iff_ne

theorem State.setST_done_soundOn_iff (b : Byte) : (s.setST b).done.soundOn = true ↔ b ≠ 0 := by
  rw [State.soundOn_iff, s.setST_done_st]

end
end Sys2Proof.Machine

namespace Sys2Proof.Certificates
open Sys2Proof Sys2Proof.Machine

/-- Settles O49: each of the three is one update (of Vx, DT or ST) and the instruction's end; `sound_on` reads the ST just
written. -/
theorem timerInstructions : Obligations.TimerInstructions := by
  intro s x
  refine ⟨?readDT, ?writeDT, ?writeST⟩
  case readDT =>
    exact ⟨_, exec_ldVxDT s x, State.done_completedAt _, s.setV_done_getV x _, s.setV_done_onlyChanges x _⟩
  case writeDT =>
    exact ⟨_, exec_ldDT s x, State.done_completedAt _, s.setDT_done_dt _, (s.setDT_onlyChanges _).done_writes⟩
  case writeST =>
    exact ⟨_, exec_ldST s x, State.done_completedAt _, s.setST_done_st _, s.setST_done_soundOn_iff _,
      (s.setST_onlyChanges _).done_writes⟩

end Sys2Proof.Certificates
end

section
/-! SUPPORT. The writers of the display and the keypad (60_exceptions.md R235): the footprints with a pixel or a key, lifted
from an instruction to the core's step, and what a load can write. -/

namespace Sys2Proof

/-- The instructions with a pixel in their footprint: CLS and DRW. -/
theorem Instr.cls_or_drw_of_dest_pixel {cfg : Params} {i : Instr} {px : Fin 64} {py : Fin 32}
    (h : i.dest cfg (.pixel px py)) : i = .cls ∨ ∃ x y n, i = .drw x y n := by
  cases i with
  | cls => exact .inl rfl
  | drw x y n => exact .inr ⟨x, y, n, rfl⟩
  | _ => simp [Instr.dest] at h

/-- No instruction has a key in its footprint (10_state.md R31). -/
theorem Instr.not_dest_key (cfg : Params) (i : Instr) (k : Nibble) : ¬i.dest cfg (.key k) := by
  cases i <;> simp [Instr.dest]

namespace Machine

/-- A part that the core's step changed, other than those of an instruction's end, is in the footprint of the instruction
fetched: a Faulted core changes nothing, and an illegal word the status register only. -/
theorem dest_of_cpuStep_changes {s t : State} {p : Part} (h : s.cpuStep = .next t) (hp : ¬p.ending)
    (hne : ¬p.Same s t) : ∃ i, decodeWord s.fetch = .ins i ∧ i.dest s.params p := by
  obtain ⟨-, hs⟩ | ⟨-, -, hs⟩ | ⟨-, i, hd, hs⟩ := s.cpuStep_cases <;> rw [hs] at h
  · cases h; exact absurd (Part.Same.refl s p) hne
  · cases h; exact absurd (s.raise_onlyChanges _ _ _ p (mt .inr hp)) hne
  · exact ⟨i, hd, dest_of_exec_changes h hp hne⟩

/-- A load writes memory, or the status register when the image is too long (60_exceptions.md R241, R225). -/
theorem State.load_onlyChanges (s : State) (image : List Byte) :
    OnlyChanges (fun p => p.status ∨ ∃ a, p = .mem a) s (s.load image) := by
  unfold State.load
  split
  · exact (s.raise_onlyChanges _ _ _).mono fun _ => .inl
  · exact (s.setMem_onlyChanges _).mono fun _ => .inr

/-- The operation after which a pixel differs: reset, or the step of CLS or DRW. -/
theorem writer_of_pixel_changes {op : Op} {s t : State} {px : Fin 64} {py : Fin 32} (h : s.perform op = .next t)
    (hne : t.disp.get px py ≠ s.disp.get px py) :
    op = .reset ∨ (op = .step ∧ (decodeWord s.fetch = .ins .cls ∨ ∃ x y n, decodeWord s.fetch = .ins (.drw x y n))) := by
  cases op with
  | step =>
    have hend : ¬(Part.pixel px py).ending := by simp [Part.ending, Part.control, Part.status]
    obtain ⟨i, hd, hdest⟩ := dest_of_cpuStep_changes h hend hne
    obtain rfl | ⟨x, y, n, rfl⟩ := Instr.cls_or_drw_of_dest_pixel hdest
    · exact .inr ⟨rfl, .inl hd⟩
    · exact .inr ⟨rfl, .inr ⟨x, y, n, hd⟩⟩
  | reset => exact .inl rfl
  | load image => cases h; exact absurd (s.load_onlyChanges image (.pixel px py) (by simp [Part.status])) hne
  | tick | keySet _ _ | rndSupply _ => cases h; exact absurd rfl hne

/-- The operation after which a key differs: the host's key_set. -/
theorem writer_of_key_changes {op : Op} {s t : State} {k : Nibble} (h : s.perform op = .next t)
    (hne : t.keyDown k ≠ s.keyDown k) : ∃ k' down, op = .keySet k' down := by
  cases op with
  | step =>
    have hend : ¬(Part.key k).ending := by simp [Part.ending, Part.control, Part.status]
    obtain ⟨i, -, hdest⟩ := dest_of_cpuStep_changes h hend hne
    exact absurd hdest (i.not_dest_key s.params k)
  | keySet k' down => exact ⟨k', down, rfl⟩
  | load image => cases h; exact absurd (s.load_onlyChanges image (.key k) (by simp [Part.status])) hne
  | tick | reset | rndSupply _ => cases h; exact absurd rfl hne

end Machine
end Sys2Proof

namespace Sys2Proof.Certificates
open Sys2Proof Sys2Proof.Machine

/-- Settles O21: the writer of a changed pixel and the writer of a changed key. -/
theorem displayAndKeypadWriters : Obligations.DisplayAndKeypadWriters := by
  intro op s t h
  exact ⟨fun ⟨_, _, hpixel⟩ => writer_of_pixel_changes h hpixel, fun ⟨_, hkey⟩ => writer_of_key_changes h hkey⟩

end Sys2Proof.Certificates
end

section
/-! SUPPORT. The Timer Unit (60_exceptions.md R230): a counter's decrement clamped at 0, and `k` ticks by induction on `k`. -/

namespace Sys2Proof.Machine

/-- The decrement of a counter, clamped at 0, is the subtraction of natural numbers. -/
theorem toNat_decrement_clamped (b : Byte) : (if b = 0 then 0 else b - 1).toNat = b.toNat - 1 := by
  split
  next h => rw [h]; rfl
  next h => bv_omega

section
variable (s : State)

theorem State.tick_onlyChanges : OnlyChanges (fun p => p = .dt ∨ p = .st) s s.tick :=
  ((s.setDT_onlyChanges s.tick.dt).andThen ((s.setDT s.tick.dt).setST_onlyChanges s.tick.st)).mono fun _ => Or.symm

/-- A counter `c` that each tick decrements, clamped at 0, is down by `k` after `k` ticks, clamped at 0. -/
theorem State.ticks_counter {c : State → Byte} (hc : ∀ u : State, c u.tick = if c u = 0 then 0 else c u - 1) (k : Nat) :
    (c (s.ticks k)).toNat = (c s).toNat - k := by
  induction k with
  | zero => rfl
  | succ k ih =>
    calc (c (s.ticks k).tick).toNat
        = (c (s.ticks k)).toNat - 1 := by rw [hc, toNat_decrement_clamped]
      _ = (c s).toNat - (k + 1) := by rw [ih, Nat.sub_sub]

theorem State.ticks_onlyChanges (k : Nat) : OnlyChanges (fun p => p = .dt ∨ p = .st) s (s.ticks k) := by
  induction k with
  | zero => exact OnlyChanges.refl _ s
  | succ k ih => exact (ih.andThen (s.ticks k).tick_onlyChanges).mono fun _ => or_self_iff.mp

end
end Sys2Proof.Machine

namespace Sys2Proof.Certificates
open Sys2Proof Sys2Proof.Machine

/-- Settles O52: DT and ST are each a counter that a tick decrements; the values and the frame are by
induction on the number of ticks. -/
theorem ticksCountDownToZero : Obligations.TicksCountDownToZero := by
  intro s k
  exact ⟨rfl, s.ticks_counter State.tick_dt k, s.ticks_counter State.tick_st k, s.ticks_onlyChanges k⟩

end Sys2Proof.Certificates
end

section
/-! SUPPORT. The step on an illegal word (60_exceptions.md R222), and taking a fault as an update of the status register. -/

namespace Sys2Proof.Machine

/-- With no other operation first, the machine's step is the core's. -/
theorem step_of_coreNext {s : State} (hn : s.CoreNext) : step s = s.cpuStep := by
  obtain ⟨-, h⟩ | ⟨op, rest, h, -⟩ := step_cases s
  · exact h
  · cases hn.symm.trans h

/-- A core that is not Faulted and fetches a word that decodes to none raises UnknownOpcode. -/
theorem State.cpuStep_of_unknown_fetch {s : State} {why : Reject} (hf : s.status.state ≠ .faulted)
    (hd : decodeWord s.fetch = .unknown why) : s.cpuStep = .next (s.raise .unknownOpcode s.fetch s.pc) := by
  obtain ⟨h, -⟩ | ⟨-, -, h⟩ | ⟨-, i, h, -⟩ := s.cpuStep_cases
  · exact absurd h hf
  · exact h
  · cases hd.symm.trans h

theorem State.raise_takesFault (s : State) (code : FaultCode) (op : Word) (pc : Addr) :
    TakesFault code op pc s (s.raise code op pc) :=
  ⟨⟨rfl, rfl, rfl, rfl⟩, s.raise_onlyChanges code op pc⟩

end Sys2Proof.Machine

namespace Sys2Proof.Certificates
open Sys2Proof Sys2Proof.Machine

/-- Settles O7: the two bytes at PC are the word fetched, and the step raises the fault with it. -/
theorem illegalWordRaisesUnknownOpcode : Obligations.IllegalWordRaisesUnknownOpcode := by
  intro s why hn hf hd
  rw [← s.fetch_eq] at hd ⊢
  exact ⟨_, (step_of_coreNext hn).trans (State.cpuStep_of_unknown_fetch hf hd), s.raise_takesFault _ _ _⟩

end Sys2Proof.Certificates
end

section
/-! SUPPORT. The outputs `disp_get` and the trace (60_exceptions.md R246, R248) as reads of the state. -/

namespace Sys2Proof.Machine

variable (s : State)

theorem State.dispGet_eq_get_mod (x y : Nat) :
    s.dispGet x y = s.disp.get ⟨x % 64, Nat.mod_lt _ (by decide)⟩ ⟨y % 32, Nat.mod_lt _ (by decide)⟩ := rfl

theorem State.trace_of_not_faulted (hf : s.status.state ≠ .faulted) :
    s.trace = some ⟨s.pc, s.fetch, decodeWord s.fetch⟩ := if_neg hf

end Sys2Proof.Machine

namespace Sys2Proof.Certificates
open Sys2Proof Sys2Proof.Machine

/-- Settles O57: one equation for each output; the trace's word is the one fetched at PC and PC + 1. -/
theorem outputsReadTheState : Obligations.OutputsReadTheState := by
  intro s x y
  refine ⟨s.soundOn_iff, s.dispGet_eq_get_mod x y, fun hf => ?_⟩
  rw [← s.fetch_eq]
  exact s.trace_of_not_faulted hf

end Sys2Proof.Certificates
end

section
/-! SUPPORT. The encoder and the decoder as inverses (30_encoding.md R80, R84): the word of a well-formed instruction decodes to
it, and a word that decodes is put together again from the fields that the decoder read. -/

namespace Sys2Proof

theorem wordFA_right_injective (t : Nibble) : Function.Injective (wordFA t) :=
  fun a b h => by simpa using congrArg fieldNNN h

theorem decodeWord_encode {i : Instr} (hi : i.WellFormed) : decodeWord (encode i) = .ins i := by
  cases i with
  | cls | ret => rfl
  | sys nnn =>
    obtain ⟨hcls, hret⟩ : nnn ≠ 0x0E0#12 ∧ nnn ≠ 0x0EE#12 := by
      simpa [Instr.WellFormed, Instr.wellFormed] using hi
    have hcls' : wordFA 0x0#4 nnn ≠ 0x00E0#16 := (wordFA_right_injective 0x0#4).ne hcls
    have hret' : wordFA 0x0#4 nnn ≠ 0x00EE#16 := (wordFA_right_injective 0x0#4).ne hret
    rw [encode, decodeWord_top0 _ (topNibble_FA _ _), decodeGroup0, if_neg hcls', if_neg hret', fieldNNN_FA]
  | jp _ | call _ | jpV0 _ | ldI _ => simp [encode, decodeWord]
  | seImm _ _ | sneImm _ _ | ldImm _ _ | addImm _ _ | rnd _ _ => simp [encode, decodeWord]
  | seReg _ _ | sneReg _ _ | drw _ _ _ => simp [encode, decodeWord]
  | ldReg _ _ | orReg _ _ | andReg _ _ | xorReg _ _ | addReg _ _ | subReg _ _ | shr _ _ | subnReg _ _ | shl _ _ =>
    simp [encode, decodeWord, decodeGroup8]
  | skp _ | sknp _ => simp [encode, decodeWord, decodeGroupE]
  | addI _ | stRegs _ | ldRegs _ | ldKey _ | ldVxDT _ | ldDT _ | ldST _ | ldF _ | ldB _ =>
    simp [encode, decodeWord, decodeGroupF]

theorem decodeBytes_encodeBytes_append (i : Instr) (rest : List Byte) :
    decodeBytes (encodeBytes i ++ rest) = (decodeWord (encode i), rest) := by
  simp [encodeBytes, decodeBytes, wordOfBytes_bytes]

/-- `op` is the word of the well-formed instruction `i`. -/
def IsWordOf (op : Word) (i : Instr) : Prop := i.WellFormed ∧ encode i = op

theorem isWordOf_of_decodeGroup0 {op : Word} {i : Instr} (ht : topNibble op = 0x0#4) (h : decodeGroup0 op = .ins i) :
    IsWordOf op i := by
  have hop : wordFA 0x0#4 (fieldNNN op) = op := ht ▸ wordFA_fields op
  unfold decodeGroup0 at h
  split at h
  next he => cases h; exact ⟨rfl, he.symm⟩
  next hcls =>
    split at h
    next he => cases h; exact ⟨rfl, he.symm⟩
    next hret =>
      cases h
      have hE0 : fieldNNN op ≠ 0x0E0#12 := fun e => hcls (hop.symm.trans (congrArg _ e))
      have hEE : fieldNNN op ≠ 0x0EE#12 := fun e => hret (hop.symm.trans (congrArg _ e))
      exact ⟨by simp [Instr.WellFormed, Instr.wellFormed, hE0, hEE], hop⟩

theorem isWordOf_of_decodeGroup8 {x y n : Nibble} {i : Instr} (h : decodeGroup8 x y n = .ins i) :
    IsWordOf (wordFXYN 0x8#4 x y n) i := by
  unfold decodeGroup8 at h
  (repeat' split at h) <;> cases h <;> subst n <;> exact ⟨rfl, rfl⟩

theorem isWordOf_of_decodeGroupE {x : Nibble} {kk : Byte} {i : Instr} (h : decodeGroupE x kk = .ins i) :
    IsWordOf (wordFXK 0xE#4 x kk) i := by
  unfold decodeGroupE at h
  (repeat' split at h) <;> cases h <;> subst kk <;> exact ⟨rfl, rfl⟩

theorem isWordOf_of_decodeGroupF {x : Nibble} {kk : Byte} {i : Instr} (h : decodeGroupF x kk = .ins i) :
    IsWordOf (wordFXK 0xF#4 x kk) i := by
  unfold decodeGroupF at h
  (repeat' split at h) <;> cases h <;> subst kk <;> exact ⟨rfl, rfl⟩

theorem isWordOf_of_decodeWord {op : Word} {i : Instr} (h : decodeWord op = .ins i) : IsWordOf op i := by
  have hFA := wordFA_fields op
  have hFXK := wordFXK_fields op
  have hFXYN := wordFXYN_fields op
  obtain t | t | t | t | t | t | t | t | t | t | t | t | t | t | t | t := nibble_cases (topNibble op) <;>
    rw [t] at hFA hFXK hFXYN
  · exact isWordOf_of_decodeGroup0 t (decodeWord_top0 op t ▸ h)
  · cases (decodeWord_top1 op t).symm.trans h; exact ⟨rfl, hFA⟩
  · cases (decodeWord_top2 op t).symm.trans h; exact ⟨rfl, hFA⟩
  · cases (decodeWord_top3 op t).symm.trans h; exact ⟨rfl, hFXK⟩
  · cases (decodeWord_top4 op t).symm.trans h; exact ⟨rfl, hFXK⟩
  · rw [decodeWord_top5 op t] at h
    split at h
    next hn => rw [hn] at hFXYN; cases h; exact ⟨rfl, hFXYN⟩
    next => cases h
  · cases (decodeWord_top6 op t).symm.trans h; exact ⟨rfl, hFXK⟩
  · cases (decodeWord_top7 op t).symm.trans h; exact ⟨rfl, hFXK⟩
  · exact hFXYN ▸ isWordOf_of_decodeGroup8 (decodeWord_top8 op t ▸ h)
  · rw [decodeWord_top9 op t] at h
    split at h
    next hn => rw [hn] at hFXYN; cases h; exact ⟨rfl, hFXYN⟩
    next => cases h
  · cases (decodeWord_topA op t).symm.trans h; exact ⟨rfl, hFA⟩
  · cases (decodeWord_topB op t).symm.trans h; exact ⟨rfl, hFA⟩
  · cases (decodeWord_topC op t).symm.trans h; exact ⟨rfl, hFXK⟩
  · cases (decodeWord_topD op t).symm.trans h; exact ⟨rfl, hFXYN⟩
  · exact hFXK ▸ isWordOf_of_decodeGroupE (decodeWord_topE op t ▸ h)
  · exact hFXK ▸ isWordOf_of_decodeGroupF (decodeWord_topF op t ▸ h)

end Sys2Proof

namespace Sys2Proof.Certificates
open Sys2Proof Sys2Proof.Machine

/-- Settles O1: every constructor's word has the fields that its arm of the decoder reads, and the two bytes are that word. -/
theorem decodeEncodeRoundTrip : Obligations.DecodeEncodeRoundTrip := by
  intro i hi
  have hword := decodeWord_encode hi
  exact ⟨hword, fun rest => by rw [decodeBytes_encodeBytes_append, hword]⟩

/-- Settles O2: by the top nibble, then by the group's sub-field. -/
theorem encodeDecodeRoundTrip : Obligations.EncodeDecodeRoundTrip :=
  fun _ _ => isWordOf_of_decodeWord

end Sys2Proof.Certificates
end

section
/-! SUPPORT. The control-flow instructions (41_control_flow.md R110 to R115) by their conditions: SYS by the policy, CALL and RET
by SP, each as a fault or as its update and a finish at the target. -/

namespace Sys2Proof

theorem encode_sys (nnn : Addr) : encode (.sys nnn) = nnn.setWidth 16 := by
  apply BitVec.eq_of_toNat_eq
  rw [encode, wordFA_toNat, BitVec.toNat_setWidth_of_le (by decide)]
  simp

theorem encode_call (nnn : Addr) : encode (.call nnn) = 0x2000 + nnn.setWidth 16 := by
  have := nnn.isLt
  apply BitVec.eq_of_toNat_eq
  rw [encode, wordFA_toNat, BitVec.toNat_add, BitVec.toNat_setWidth_of_le (by decide)]
  simp
  omega

namespace Machine

variable (s : State)

/-- The entry j written and SP counting it: a push at SP = j. -/
def State.pushed (s : State) (j : Fin 16) (w : Word) : State := { s with stack := s.stack.set j w, sp := j.succ }

/-- SP not counting the entry j: a pop at SP = j + 1, which leaves the entry in place. -/
def State.popped (s : State) (j : Fin 16) : State := { s with sp := j.castSucc }

theorem State.pushed_stackAt (j : Fin 16) (w : Word) (k : Fin 16) :
    (s.pushed j w).stackAt k = if k = j then w else s.stackAt k := by
  by_cases h : k = j
  · subst h; simp [State.pushed, State.stackAt]
  · have hne : j.val ≠ k.val := fun e => h (Fin.ext e.symm)
    simp [State.pushed, State.stackAt, h, hne]

theorem State.pushed_onlyChanges (j : Fin 16) (w : Word) :
    OnlyChanges (fun p => p = .sp ∨ p = .stack j) s (s.pushed j w) := by
  intro p hp
  cases p with
  | sp => exact absurd (.inl rfl) hp
  | stack k => exact (s.pushed_stackAt j w k).trans (if_neg fun e => hp (.inr (congrArg _ e)))
  | faultRecord => exact ⟨rfl, rfl, rfl⟩
  | _ => rfl

theorem State.popped_onlyChanges (j : Fin 16) : OnlyChanges (· = .sp) s (s.popped j) := by
  intro p hp
  cases p with
  | sp => exact absurd rfl hp
  | faultRecord => exact ⟨rfl, rfl, rfl⟩
  | _ => rfl

theorem exec_sys_of_fault (nnn : Addr) (h : s.params.sysPolicy = .fault) :
    exec (.sys nnn) s = .next (s.raise .unknownOpcode (encode (.sys nnn)) s.pc) := by
  simp only [exec, execSys, h]

theorem exec_sys_of_ignore (nnn : Addr) (h : s.params.sysPolicy = .ignore) : exec (.sys nnn) s = .next s.done := by
  simp only [exec, execSys, h]

theorem exec_call_of_full (nnn : Addr) (h : s.sp.val = 16) :
    exec (.call nnn) s = .next (s.raise .stackOverflow (encode (.call nnn)) s.pc) := by
  simp only [exec, execCall, (s.push_none _).mpr h]

theorem exec_call_of_sp {j : Fin 16} (nnn : Addr) (h : s.sp.val = j.val) :
    exec (.call nnn) s = .next ((s.pushed j ((s.pc + 2).setWidth 16)).finish nnn) := by
  obtain ⟨j, hj⟩ := j
  subst h
  simp only [exec, execCall, s.push_of_lt _ hj]
  rfl

theorem exec_ret_of_empty (h : s.sp.val = 0) : exec .ret s = .next (s.raise .stackUnderflow 0x00EE s.pc) := by
  simp only [exec, execRet, s.pop_none.mpr h]
  rfl

theorem exec_ret_of_sp {j : Fin 16} (h : s.sp.val = j.val + 1) :
    exec .ret s = .next ((s.popped j).finish ((s.stackAt j).setWidth 12)) := by
  have htop : s.sp.val - 1 = j.val := by omega
  simp only [exec, execRet, s.pop_of_pos (by omega), htop]
  rfl

theorem exec_jpV0 (nnn : Addr) : exec (.jpV0 nnn) s = .next (s.finish (nnn + (s.jumpOffset nnn).setWidth 12)) := rfl

theorem State.sp_full_or_room : s.sp.val = 16 ∨ ∃ j : Fin 16, s.sp.val = j.val := by
  have := s.sp.isLt
  by_cases h : s.sp.val = 16
  · exact .inl h
  · exact .inr ⟨⟨s.sp.val, by omega⟩, rfl⟩

theorem State.sp_empty_or_entry : s.sp.val = 0 ∨ ∃ j : Fin 16, s.sp.val = j.val + 1 := by
  have := s.sp.isLt
  by_cases h : s.sp.val = 0
  · exact .inl h
  · exact .inr ⟨⟨s.sp.val - 1, by omega⟩, (Nat.succ_pred h).symm⟩

theorem State.jumpOffset_of_v0 (nnn : Addr) (h : s.params.jumpOffsetReg = .v0) : s.jumpOffset nnn = s.getV 0 := by
  simp only [State.jumpOffset, h]

theorem State.jumpOffset_of_vx (nnn : Addr) (h : s.params.jumpOffsetReg = .vx) :
    s.jumpOffset nnn = s.getV (BitVec.ofNat 4 (nnn.toNat / 0x100)) := by
  have hx : nnn.extractLsb' 8 4 = BitVec.ofNat 4 (nnn.toNat / 0x100) := by
    apply BitVec.eq_of_toNat_eq
    simp [Nat.shiftRight_eq_div_pow]
  simp only [State.jumpOffset, h, hx]

/-- An instruction's end at any target, after the updates `d`. -/
theorem OnlyChanges.finish_writes {d : Part → Prop} {l : List Part} {s u : State} (h : OnlyChanges d s u)
    (hd : ∀ p, d p → p ∈ l) (a : Addr) : OnlyChanges (writes l) s (u.finish a) :=
  (h.andThen (u.finish_onlyChanges a)).mono fun p => Or.imp_right (hd p)

end Machine
end Sys2Proof

namespace Sys2Proof.Certificates
open Sys2Proof Sys2Proof.Machine

/-- Settles O24: SYS under each policy is a fault with its own word, or the end of an instruction alone. -/
theorem sysFollowsThePolicy : Obligations.SysFollowsThePolicy := by
  intro s nnn
  constructor
  · intro h
    exact ⟨_, exec_sys_of_fault s nnn h, encode_sys nnn ▸ s.raise_takesFault _ _ _⟩
  · intro h
    exact ⟨_, exec_sys_of_ignore s nnn h, s.done_completedAt, (OnlyChanges.refl _ s).finish_writes (fun _ => id) _⟩

/-- Settles O26: RET by SP. -/
theorem retPopsOrUnderflows : Obligations.RetPopsOrUnderflows := by
  intro s
  constructor
  · intro h
    exact ⟨_, exec_ret_of_empty s h, s.raise_takesFault _ _ _⟩
  · intro j h
    exact ⟨_, exec_ret_of_sp s h, State.finish_completedAt _ _, rfl,
      (s.popped_onlyChanges j).finish_writes (by simp) _⟩

/-- Settles O28: CALL by SP. -/
theorem callPushesOrOverflows : Obligations.CallPushesOrOverflows := by
  intro s nnn
  constructor
  · intro h
    exact ⟨_, exec_call_of_full s nnn h, encode_call nnn ▸ s.raise_takesFault _ _ _⟩
  · intro j h
    refine ⟨_, exec_call_of_sp s nnn h, State.finish_completedAt _ _, rfl, ?_,
      (s.pushed_onlyChanges j _).finish_writes (by simp) _⟩
    rw [State.finish_stackAt, s.pushed_stackAt, if_pos rfl, BitVec.toNat_setWidth_of_le (by decide), BitVec.toNat_add]
    rfl

/-- Settles O29: RET pops the entry that CALL pushed, whose low 12 bits are pc + 2. -/
theorem callThenRetReturns : Obligations.CallThenRetReturns := by
  intro s nnn j h
  have hcall := exec_call_of_sp s nnn h
  have hret := exec_ret_of_sp ((s.pushed j ((s.pc + 2).setWidth 16)).finish nnn) (j := j) rfl
  have htop : ((s.pc + 2).setWidth 16).setWidth 12 = s.pc + 2 := maskAddr_setWidth _
  rw [State.finish_stackAt, s.pushed_stackAt, if_pos rfl, htop] at hret
  have hsp : j.castSucc = s.sp := Fin.ext h.symm
  have hframe := (((s.pushed_onlyChanges j ((s.pc + 2).setWidth 16)).andThen (State.finish_onlyChanges _ nnn)).andThen
    (State.popped_onlyChanges _ j)).andThen (State.finish_onlyChanges _ (s.pc + 2))
  refine ⟨_, _, hcall, hret, State.finish_completedAt _ _, hsp, fun p hp => ?_⟩
  obtain ⟨hcontrol, hentry⟩ : ¬p.control ∧ p ≠ .stack j := by simpa [writes] using hp
  by_cases hpsp : p = .sp
  · subst hpsp; exact hsp
  · exact hframe p (by simp [hcontrol, hentry, hpsp])

/-- Settles O30: the target is a sum of 12-bit addresses, the register chosen by the parameter. -/
theorem jpV0AddsItsRegister : Obligations.JpV0AddsItsRegister := by
  intro s nnn
  refine ⟨_, exec_jpV0 s nnn, rfl, ?_, (OnlyChanges.refl _ s).finish_writes (fun _ => id) _⟩
  have hsum : (nnn + (s.jumpOffset nnn).setWidth 12).toNat = (nnn.toNat + (s.jumpOffset nnn).toNat) % 0x1000 := by
    rw [BitVec.toNat_add, BitVec.toNat_setWidth_of_le (by decide)]
  rw [State.finish_pc, hsum]
  split
  next hr => rw [s.jumpOffset_of_v0 nnn hr]
  next hr => rw [s.jumpOffset_of_vx nnn hr]

end Sys2Proof.Certificates
end

section
/-! SUPPORT. The three ends of an instruction (00_scope.md R16), said once for all of them: which instruction faults and which
holds, and what is left of the status register. -/

namespace Sys2Proof

/-- The instruction faults with this code in this state, by 60_exceptions.md R221's table. -/
def Instr.Faults (s : Machine.State) (i : Instr) (code : Machine.FaultCode) : Prop :=
  (code = .unknownOpcode ∧ s.params.sysPolicy = .fault ∧ ∃ nnn, i = .sys nnn) ∨
  (code = .stackOverflow ∧ s.sp.val = 16 ∧ ∃ nnn, i = .call nnn) ∨
  (code = .stackUnderflow ∧ s.sp.val = 0 ∧ i = .ret)

namespace Machine

theorem exec_ldKey_of_lowest (s : State) (x : Nibble) {k : Nat} (h : s.lowestKey = some k) :
    exec (.ldKey x) s = .next (s.setV x (BitVec.ofNat 8 k)).done := by
  simp only [exec, execLdKey, h]

theorem exec_ldKey_of_none (s : State) (x : Nibble) (h : s.lowestKey = none) : exec (.ldKey x) s = .next s.hold := by
  simp only [exec, execLdKey, h]

/-- An instruction completes, holds or faults. -/
theorem exec_ends (i : Instr) (s : State) :
    (∃ t, exec i s = .next t ∧ t.status = { s.status with state := .running }) ∨
    (exec i s = .next s.hold ∧ (∃ x, i = .ldKey x) ∧ ∀ k, s.keyDown k = false) ∨
    (∃ code, exec i s = .next (s.raise code (encode i) s.pc) ∧ i.Faults s code) := by
  cases i with
  | sys nnn =>
    cases hp : s.params.sysPolicy with
    | fault => exact .inr (.inr ⟨_, exec_sys_of_fault s nnn hp, .inl ⟨rfl, hp, nnn, rfl⟩⟩)
    | ignore => exact .inl ⟨_, exec_sys_of_ignore s nnn hp, rfl⟩
  | call nnn =>
    obtain hfull | ⟨j, hj⟩ := s.sp_full_or_room
    · exact .inr (.inr ⟨_, exec_call_of_full s nnn hfull, .inr (.inl ⟨rfl, hfull, nnn, rfl⟩)⟩)
    · exact .inl ⟨_, exec_call_of_sp s nnn hj, rfl⟩
  | ret =>
    obtain hempty | ⟨j, hj⟩ := s.sp_empty_or_entry
    · exact .inr (.inr ⟨_, exec_ret_of_empty s hempty, .inr (.inr ⟨rfl, hempty, rfl⟩)⟩)
    · exact .inl ⟨_, exec_ret_of_sp s hj, rfl⟩
  | ldKey x =>
    cases hk : s.lowestKey with
    | some k => exact .inl ⟨_, exec_ldKey_of_lowest s x hk, rfl⟩
    | none => exact .inr (.inl ⟨exec_ldKey_of_none s x hk, ⟨x, rfl⟩, fun k => s.lowestKey_none.mp hk k.toNat k.isLt⟩)
  | orReg x y | andReg x y | xorReg x y =>
    exact .inl ⟨_, rfl, by rw [State.done_eq, State.finish_status, State.setLogic_status]⟩
  | _ => exact .inl ⟨_, rfl, rfl⟩

/-- An operation of the boundary answers a next state. -/
theorem State.perform_answers_next (s : State) (op : Op) : ∃ t, s.perform op = .next t := by
  cases op with
  | step =>
    obtain ⟨-, h⟩ | ⟨-, -, h⟩ | ⟨-, i, -, h⟩ := s.cpuStep_cases
    · exact ⟨_, h⟩
    · exact ⟨_, h⟩
    · obtain ⟨t, ht, -⟩ | ⟨ht, -⟩ | ⟨code, ht, -⟩ := exec_ends i s <;> exact ⟨_, h.trans ht⟩
  | _ => exact ⟨_, rfl⟩

/-- The core's step faults with this code: the word fetched is illegal, or its instruction faults (R221, R222). -/
def State.FetchFaults (s : State) (code : FaultCode) : Prop :=
  (code = .unknownOpcode ∧ ((∃ why, decodeWord s.fetch = .unknown why) ∨
    (s.params.sysPolicy = .fault ∧ ∃ nnn, decodeWord s.fetch = .ins (.sys nnn)))) ∨
  (code = .stackOverflow ∧ s.sp.val = 16 ∧ ∃ nnn, decodeWord s.fetch = .ins (.call nnn)) ∨
  (code = .stackUnderflow ∧ s.sp.val = 0 ∧ s.fetch = 0x00EE)

section
variable {s : State}

/-- A fetched word is the encoding of the instruction that it decodes to. -/
theorem encode_of_decode_fetch {i : Instr} (hd : decodeWord s.fetch = .ins i) : encode i = s.fetch :=
  (isWordOf_of_decodeWord hd).2

theorem State.fetchFaults_of_faults {i : Instr} {code : FaultCode} (hd : decodeWord s.fetch = .ins i)
    (h : i.Faults s code) : s.FetchFaults code := by
  obtain ⟨rfl, hp, nnn, rfl⟩ | ⟨rfl, hsp, nnn, rfl⟩ | ⟨rfl, hsp, rfl⟩ := h
  · exact .inl ⟨rfl, .inr ⟨hp, nnn, hd⟩⟩
  · exact .inr (.inl ⟨rfl, hsp, nnn, hd⟩)
  · exact .inr (.inr ⟨rfl, hsp, (encode_of_decode_fetch hd).symm⟩)

theorem State.cpuStep_of_faulted (hf : s.status.state = .faulted) : s.cpuStep = .next s := if_pos hf

/-- The step of a core that is not Faulted completes an instruction, holds or faults. -/
theorem State.cpuStep_ends (hf : s.status.state ≠ .faulted) :
    (∃ t, s.cpuStep = .next t ∧ t.status = { s.status with state := .running }) ∨
    (s.cpuStep = .next s.hold ∧ (∃ x, decodeWord s.fetch = .ins (.ldKey x)) ∧ ∀ k, s.keyDown k = false) ∨
    (∃ code, s.cpuStep = .next (s.raise code s.fetch s.pc) ∧ s.FetchFaults code) := by
  obtain ⟨h, -⟩ | ⟨-, hd, h⟩ | ⟨-, i, hd, h⟩ := s.cpuStep_cases
  · exact absurd h hf
  · exact .inr (.inr ⟨_, h, .inl ⟨rfl, .inl hd⟩⟩)
  · obtain ⟨t, ht, hrun⟩ | ⟨ht, ⟨x, rfl⟩, hk⟩ | ⟨code, ht, hcause⟩ := exec_ends i s
    · exact .inl ⟨t, h.trans ht, hrun⟩
    · exact .inr (.inl ⟨h.trans ht, ⟨x, hd⟩, hk⟩)
    · rw [encode_of_decode_fetch hd] at ht
      exact .inr (.inr ⟨code, h.trans ht, State.fetchFaults_of_faults hd hcause⟩)

end

theorem State.load_of_too_long (s : State) {image : List Byte} (h : 0xE00 < image.length) :
    s.load image = s.raise .invalidLoad 0 0 := if_pos h

theorem State.load_of_fits (s : State) {image : List Byte} (h : image.length ≤ 0xE00) :
    s.load image = s.setMem (s.mem.loadFrom 0x200 image) := if_neg (Nat.not_lt.mpr h)

end Machine
end Sys2Proof

namespace Sys2Proof.Certificates
open Sys2Proof Sys2Proof.Machine

/-- Settles O11: the step performs an operation, the core's own step when the agenda is empty. -/
theorem stepAlwaysAnswersNext : Obligations.StepAlwaysAnswersNext := by
  intro s
  obtain ⟨-, h⟩ | ⟨op, rest, -, h⟩ := step_cases s <;> rw [h]
  · exact s.perform_answers_next .step
  · exact State.perform_answers_next _ op

/-- Settles O12: of the three ends of a step only the fault leaves the core Faulted; it, and a load that is too long, update the
status register alone. -/
theorem faultsArePrecise : Obligations.FaultsArePrecise := by
  constructor
  · intro s t hf h ht
    obtain ⟨u, hu, hrun⟩ | ⟨hu, -⟩ | ⟨code, hu, hcause⟩ := State.cpuStep_ends hf <;> cases h.symm.trans hu
    · simp [hrun] at ht
    · simp at ht
    · exact ⟨code, s.raise_takesFault code _ _, hcause⟩
  · intro s image hlen
    rw [s.load_of_too_long hlen]
    exact s.raise_takesFault _ _ _

/-- Settles O13: of the three ends of a step only the hold leaves the core WaitingForKey. -/
theorem onlyLdKeyHolds : Obligations.OnlyLdKeyHolds := by
  intro s t h ht
  by_cases hf : s.status.state = .faulted
  · cases h.symm.trans (State.cpuStep_of_faulted hf)
    simp [hf] at ht
  · obtain ⟨u, hu, hrun⟩ | ⟨hu, hkey, hup⟩ | ⟨code, hu, -⟩ := State.cpuStep_ends hf <;> cases h.symm.trans hu
    · simp [hrun] at ht
    · exact ⟨hkey, hup, s.hold_onlyChanges⟩
    · simp at ht

end Sys2Proof.Certificates
end

section
/-! SUPPORT. The invariant (10_state.md R29, R36; 60_exceptions.md R221, R226, R227): what each end of a step and each operation
of the host does to its three clauses. -/

namespace Sys2Proof.Machine

section
variable {s t : State}

/-! ### the status clause -/

/-- A core that is not Faulted has a legal status register exactly when it holds no record. -/
theorem State.statusLegal_iff_of_not_faulted (hf : s.status.state ≠ .faulted) :
    s.StatusLegal ↔ s.status.faultCode = .noFault ∧ s.status.faultOpcode = 0 ∧ s.status.faultPc = 0 := by
  unfold State.StatusLegal
  split <;> simp [*]

/-- The clause reads the status register, the PC, SP and the parameters. -/
theorem State.StatusLegal.of_eq (h : s.StatusLegal) (hstatus : t.status = s.status) (hpc : t.pc = s.pc) (hsp : t.sp = s.sp)
    (hparams : t.params = s.params) : t.StatusLegal := by
  simpa only [State.StatusLegal, hstatus, hpc, hsp, hparams] using h

/-- Completing and holding change `status.state` to Running or WaitingForKey, whatever else is written. -/
theorem State.StatusLegal.of_state (h : s.StatusLegal) (hf : s.status.state ≠ .faulted) {c : CoreState} (hc : c ≠ .faulted)
    (ht : t.status = { s.status with state := c }) : t.StatusLegal := by
  rw [State.statusLegal_iff_of_not_faulted hf] at h
  rw [State.statusLegal_iff_of_not_faulted (by simpa [ht] using hc), ht]
  exact h

theorem State.statusLegal_raise_fetch {code : FaultCode} (h : s.FetchFaults code) :
    (s.raise code s.fetch s.pc).StatusLegal := by
  obtain ⟨rfl, hcause⟩ | ⟨rfl, hcause⟩ | ⟨rfl, hcause⟩ := h <;> exact ⟨rfl, rfl, hcause⟩

theorem State.cpuStep_keeps_statusLegal (hs : s.StatusLegal) (h : s.cpuStep = .next t) : t.StatusLegal := by
  by_cases hf : s.status.state = .faulted
  · cases h.symm.trans (State.cpuStep_of_faulted hf)
    exact hs
  · obtain ⟨u, hu, hrun⟩ | ⟨hu, -⟩ | ⟨code, hu, hcause⟩ := State.cpuStep_ends hf <;> cases h.symm.trans hu
    · exact hs.of_state hf (by decide) hrun
    · exact hs.of_state hf (by decide) s.hold_status
    · exact State.statusLegal_raise_fetch hcause

/-! ### the memory clause -/

/-- The block writes of LD [I] and LD B keep the canonical form; no other instruction writes memory. -/
theorem exec_keeps_mem_wf {i : Instr} (hm : s.mem.wf = true) (h : exec i s = .next t) : t.mem.wf = true := by
  cases i with
  | stRegs x => cases h; exact Memory.wf_putBytes _ _ _ hm
  | ldB x => cases h; exact Memory.wf_putBytes _ _ _ hm
  | sys nnn =>
    cases hp : s.params.sysPolicy with
    | fault => cases h.symm.trans (exec_sys_of_fault s nnn hp); exact hm
    | ignore => cases h.symm.trans (exec_sys_of_ignore s nnn hp); exact hm
  | call nnn =>
    obtain hfull | ⟨j, hj⟩ := s.sp_full_or_room
    · cases h.symm.trans (exec_call_of_full s nnn hfull); exact hm
    · cases h.symm.trans (exec_call_of_sp s nnn hj); exact hm
  | ret =>
    obtain hempty | ⟨j, hj⟩ := s.sp_empty_or_entry
    · cases h.symm.trans (exec_ret_of_empty s hempty); exact hm
    · cases h.symm.trans (exec_ret_of_sp s hj); exact hm
  | ldKey x =>
    cases hk : s.lowestKey with
    | some k => cases h.symm.trans (exec_ldKey_of_lowest s x hk); exact hm
    | none => cases h.symm.trans (exec_ldKey_of_none s x hk); exact hm
  | orReg x y | andReg x y | xorReg x y =>
    cases h
    rwa [State.done_eq, State.finish_mem, State.setLogic_mem]
  | _ => cases h; exact hm

/-! ### the stack clause -/

/-- An instruction other than CALL leaves every stack entry as it was. -/
theorem exec_stackAt_of_not_call {i : Instr} (hi : ∀ nnn, i ≠ .call nnn) (h : exec i s = .next t) (j : Fin 16) :
    t.stackAt j = s.stackAt j := by
  refine exec_onlyChanges h (.stack j) ?_
  rintro (hend | hdest)
  · simp [Part.ending, Part.control, Part.status] at hend
  · obtain ⟨nnn, hcall⟩ := Instr.call_of_dest_stack hdest
    exact hi nnn hcall

/-- What CALL pushes is a 12-bit address. -/
theorem exec_keeps_stackEntries {i : Instr} (hstack : ∀ j, (s.stackAt j).toNat ≤ 0xFFF) (h : exec i s = .next t)
    (k : Fin 16) : (t.stackAt k).toNat ≤ 0xFFF := by
  by_cases hi : ∃ nnn, i = .call nnn
  · obtain ⟨nnn, rfl⟩ := hi
    obtain hfull | ⟨j, hj⟩ := s.sp_full_or_room
    · cases h.symm.trans (exec_call_of_full s nnn hfull)
      exact hstack k
    · cases h.symm.trans (exec_call_of_sp s nnn hj)
      rw [State.finish_stackAt, s.pushed_stackAt]
      split
      · rw [BitVec.toNat_setWidth_of_le (by decide)]
        exact Nat.le_of_lt_succ (s.pc + 2).isLt
      · exact hstack k
  · rw [exec_stackAt_of_not_call (fun nnn hcall => hi ⟨nnn, hcall⟩) h]
    exact hstack k

/-! ### the step and the operations -/

theorem State.Inv.cpuStep (hs : s.Inv) (h : s.cpuStep = .next t) : t.Inv := by
  have hstatus := State.cpuStep_keeps_statusLegal hs.status h
  obtain ⟨-, hstep⟩ | ⟨-, -, hstep⟩ | ⟨-, i, -, hstep⟩ := s.cpuStep_cases <;> rw [hstep] at h
  · cases h; exact hs
  · cases h; exact ⟨hs.memory, hs.stackEntries, hstatus⟩
  · exact ⟨exec_keeps_mem_wf hs.memory h, exec_keeps_stackEntries hs.stackEntries h, hstatus⟩

/-- A load that fits keeps the canonical form; one that is too long latches InvalidLoad. -/
theorem State.Inv.load (hs : s.Inv) (image : List Byte) : (s.load image).Inv := by
  by_cases hlen : 0xE00 < image.length
  · rw [s.load_of_too_long hlen]
    exact ⟨hs.memory, hs.stackEntries, rfl, rfl, rfl⟩
  · rw [s.load_of_fits (Nat.not_lt.mp hlen)]
    exact ⟨Memory.wf_loadFrom image s.mem 0x200 hs.memory (by omega), hs.stackEntries, hs.status.of_eq rfl rfl rfl rfl⟩

theorem State.resetOp_inv (s : State) : s.resetOp.Inv where
  memory := resetMem_wf s.params
  stackEntries j := by simp
  status := (State.statusLegal_iff_of_not_faulted (by simp [Status.reset])).mpr ⟨rfl, rfl, rfl⟩

theorem State.Inv.perform {op : Op} (hs : s.Inv) (h : s.perform op = .next t) : t.Inv := by
  cases op with
  | step => exact hs.cpuStep h
  | load image => cases h; exact hs.load image
  | reset => cases h; exact s.resetOp_inv
  | tick | keySet _ _ | rndSupply _ =>
    cases h; exact ⟨hs.memory, hs.stackEntries, hs.status.of_eq rfl rfl rfl rfl⟩

end

/-- State.reset is what the reset operation gives from it. -/
theorem State.resetOp_reset : State.reset.resetOp = State.reset := by
  have hmem : resetMem defaultParams = [] := by decide
  simp [State.resetOp, State.reset, hmem]

end Sys2Proof.Machine

namespace Sys2Proof.Certificates
open Sys2Proof Sys2Proof.Machine

/-- Settles O9: the step is the core's own or an operation of the agenda, whose removal changes nothing the invariant reads. -/
theorem stepKeepsTheInvariant : Obligations.StepKeepsTheInvariant := by
  intro s t hs h
  obtain ⟨-, hstep⟩ | ⟨op, rest, -, hstep⟩ := step_cases s <;> rw [hstep] at h
  · exact hs.cpuStep h
  · have hs' : State.Inv { s with agenda := rest } :=
      ⟨hs.memory, hs.stackEntries, hs.status.of_eq rfl rfl rfl rfl⟩
    exact hs'.perform h

/-- Settles O55: the default font and P_INIT_MEM are what unlisted addresses read as, so no cell is listed. -/
theorem resetIsTheResetOperation : Obligations.ResetIsTheResetOperation :=
  ⟨congrArg _ State.resetOp_reset, rfl⟩

/-- Settles O10: the reset state is one that the reset operation gives. -/
theorem resetMeetsTheInvariant : Obligations.ResetMeetsTheInvariant := by
  have hinv := State.reset.resetOp_inv
  rwa [State.resetOp_reset] at hinv

end Sys2Proof.Certificates
end

section
/-! SUPPORT. Rules about every operation: what leaves a Faulted core Faulted, the end of a run, and the parts that no instruction
but one of the timers', or none at all, has in its footprint. -/

namespace Sys2Proof

/-- The instruction with DT in its footprint. -/
theorem Instr.ldDT_of_dest_dt {cfg : Params} {i : Instr} (h : i.dest cfg .dt) : ∃ x, i = .ldDT x := by
  cases i with
  | ldDT x => exact ⟨x, rfl⟩
  | _ => simp [Instr.dest] at h

/-- The instruction with ST in its footprint. -/
theorem Instr.ldST_of_dest_st {cfg : Params} {i : Instr} (h : i.dest cfg .st) : ∃ x, i = .ldST x := by
  cases i with
  | ldST x => exact ⟨x, rfl⟩
  | _ => simp [Instr.dest] at h

/-- No instruction has the parameters in its footprint. -/
theorem Instr.not_dest_params (cfg : Params) (i : Instr) : ¬i.dest cfg .params := by
  cases i <;> simp [Instr.dest]

namespace Machine

section
variable {s t : State}

theorem State.load_state_of_faulted (hf : s.status.state = .faulted) (image : List Byte) :
    (s.load image).status.state = .faulted := by
  by_cases hlen : 0xE00 < image.length
  · rw [s.load_of_too_long hlen]; rfl
  · rw [s.load_of_fits (Nat.not_lt.mp hlen)]; exact hf

theorem State.perform_state_of_faulted {op : Op} (hf : s.status.state = .faulted) (hop : op ≠ .reset)
    (h : s.perform op = .next t) : t.status.state = .faulted := by
  cases op with
  | reset => exact absurd rfl hop
  | step => cases h.symm.trans (State.cpuStep_of_faulted hf); exact hf
  | load image => cases h; exact State.load_state_of_faulted hf image
  | tick | keySet _ _ | rndSupply _ => cases h; exact hf

/-- Finishing where the PC already stands writes `status.state` alone. -/
theorem State.finish_pc_onlyChanges (s : State) : OnlyChanges (· = .coreState) s (s.finish s.pc) := by
  intro p hp
  by_cases hpc : p = .pc
  · subst hpc; rfl
  · exact s.finish_onlyChanges s.pc p (by simp [Part.control, hpc, hp])

/-- The step of a core whose word at PC is a jump to that PC. -/
theorem State.cpuStep_of_jp_self (hf : s.status.state ≠ .faulted) (hd : decodeWord s.fetch = .ins (.jp s.pc)) :
    s.cpuStep = .next (s.finish s.pc) := by
  obtain ⟨h, -⟩ | ⟨-, ⟨why, h⟩, -⟩ | ⟨-, i, h, hexec⟩ := s.cpuStep_cases
  · exact absurd h hf
  · cases hd.symm.trans h
  · cases hd.symm.trans h; exact hexec.trans (exec_jp s s.pc)

theorem State.perform_params {op : Op} (h : s.perform op = .next t) : t.params = s.params := by
  cases op with
  | step =>
    refine Classical.byContradiction fun hne => ?_
    have hend : ¬Part.params.ending := by simp [Part.ending, Part.control, Part.status]
    obtain ⟨i, -, hdest⟩ := dest_of_cpuStep_changes (p := .params) h hend hne
    exact i.not_dest_params s.params hdest
  | load image => cases h; exact s.load_onlyChanges image .params (by simp [Part.status])
  | tick | reset | keySet _ _ | rndSupply _ => cases h; rfl

end
end Machine
end Sys2Proof

namespace Sys2Proof.Certificates
open Sys2Proof Sys2Proof.Machine

/-- Settles O8: the step is the test for Faulted, a load keeps or latches the fault, no other operation but reset writes the
status register. -/
theorem faultedCoreStaysUntilReset : Obligations.FaultedCoreStaysUntilReset := by
  intro s hf
  have hstep := State.cpuStep_of_faulted hf
  refine ⟨hstep, if_pos hf, fun hn => (step_of_coreNext hn).trans hstep, ?_, ⟨_, rfl, rfl⟩⟩
  exact fun op t hop h => State.perform_state_of_faulted hf hop h

/-- Settles O15: the agenda is taken from its front. -/
theorem agendaRunsInOrder : Obligations.AgendaRunsInOrder := by
  intro s op rest h
  obtain ⟨hnil, -⟩ | ⟨op', rest', hcons, hstep⟩ := step_cases s
  · cases hnil.symm.trans h
  · cases hcons.symm.trans h; exact hstep

/-- Settles O16: a Faulted core stays as it is; a jump to itself finishes at the PC it has, with the same word there. -/
theorem endedRunStaysEnded : Obligations.EndedRunStaysEnded := by
  intro s hn hended
  rw [step_of_coreNext hn]
  by_cases hf : s.status.state = .faulted
  · exact ⟨s, State.cpuStep_of_faulted hf, .inl hf, hn, OnlyChanges.refl _ s⟩
  · have hd := hended.resolve_left hf
    exact ⟨_, State.cpuStep_of_jp_self hf hd, .inr hd, hn, s.finish_pc_onlyChanges⟩

/-- Settles O17: the footprints with DT or ST; of the host's operations only tick and reset write either. -/
theorem timersChangeOnlyByTheirWriters : Obligations.TimersChangeOnlyByTheirWriters := by
  refine ⟨fun i s t h => ⟨fun hne => ?_, fun hne => ?_⟩, fun op s t h hstep htick hreset => ?_, fun s u hdt hst => ?_,
    fun s => s.tick_onlyChanges⟩
  · have hend : ¬Part.dt.ending := by simp [Part.ending, Part.control, Part.status]
    exact Instr.ldDT_of_dest_dt (dest_of_exec_changes h hend hne)
  · have hend : ¬Part.st.ending := by simp [Part.ending, Part.control, Part.status]
    exact Instr.ldST_of_dest_st (dest_of_exec_changes h hend hne)
  · cases op with
    | step => exact absurd rfl hstep
    | tick => exact absurd rfl htick
    | reset => exact absurd rfl hreset
    | load image =>
      cases h
      have hframe := s.load_onlyChanges image
      exact ⟨hframe .dt (by simp [Part.status]), hframe .st (by simp [Part.status])⟩
    | keySet _ _ | rndSupply _ => cases h; exact ⟨rfl, rfl⟩
  · rw [s.tick_dt, s.tick_st, hdt, hst]
    exact ⟨rfl, rfl⟩

/-- Settles O22: no footprint has the parameters, and no operation of the host writes them. -/
theorem parametersNeverChange : Obligations.ParametersNeverChange := by
  intro s t h
  obtain ⟨-, hstep⟩ | ⟨op, rest, -, hstep⟩ := step_cases s <;> rw [hstep] at h
  · exact State.perform_params (op := .step) h
  · exact (State.perform_params h :)

end Sys2Proof.Certificates
end

section
/-! SUPPORT. The host's operations (60_exceptions.md R241, R243, R245; 70_reset_and_hazards.md R270): load and reset byte by byte,
the frames of key_set and of a supplied byte; and canonical memories as the functions they are read as. -/

namespace Sys2Proof.Machine

section
variable (s : State)

theorem State.keySet_onlyChanges (k : Nibble) (down : Bool) : OnlyChanges (· = .key k) s (s.keySet k down) := by
  intro p hp
  cases p with
  | key k' => simp [Part.Same, show k' ≠ k from fun e => hp (e ▸ rfl)]
  | _ => simp [Part.Same]

theorem State.rndSupply_onlyChanges (b : Byte) : OnlyChanges (· = .rndIn) s (s.rndSupply b) := by
  intro p hp
  cases p with
  | rndIn => exact absurd rfl hp
  | _ => simp [Part.Same]

end

section
variable {s : State} (hm : s.mem.wf = true) {image : List Byte} (hlen : image.length ≤ 0xE00)
include hm hlen

theorem State.load_byteAt_image {k : Nat} (hk : k < image.length) :
    (s.load image).byteAt (BitVec.ofNat 12 (0x200 + k)) = image[k] := by
  have ha : (BitVec.ofNat 12 (0x200 + k)).toNat = 0x200 + k := by rw [BitVec.toNat_ofNat]; omega
  rw [s.load_of_fits hlen, State.setMem_byteAt, ha, Memory.read_loadFrom image s.mem 0x200 _ hm (by omega)]
  simp [hk]

theorem State.load_byteAt_other {a : Addr} (ha : ∀ k, k < image.length → a ≠ BitVec.ofNat 12 (0x200 + k)) :
    (s.load image).byteAt a = s.byteAt a := by
  rw [s.load_of_fits hlen, State.setMem_byteAt, Memory.read_loadFrom image s.mem 0x200 _ hm (by omega), dif_neg]
  · rfl
  · rintro ⟨hlo, hhi⟩
    refine ha _ hhi ?_
    rw [Nat.add_sub_cancel' hlo, BitVec.ofNat_toNat, BitVec.setWidth_eq]

theorem State.load_onlyChanges_image :
    OnlyChanges (fun p => ∃ k, k < image.length ∧ p = .mem (BitVec.ofNat 12 (0x200 + k))) s (s.load image) := by
  intro p hp
  by_cases hmem : ∃ a, p = .mem a
  · obtain ⟨a, rfl⟩ := hmem
    exact State.load_byteAt_other hm hlen fun k hk ha => hp ⟨k, hk, congrArg Part.mem ha⟩
  · rw [s.load_of_fits hlen]
    exact s.setMem_onlyChanges _ p hmem

end

/-! ### canonical memories -/

/-- A memory does not read as unlisted at its first cell's address. -/
theorem Memory.read_head_ne_unlisted {a : Nat} {v : Byte} {rest : Memory} (hm : Memory.wf ((a, v) :: rest) = true) :
    Memory.read ((a, v) :: rest) a ≠ unlistedByte a := by
  obtain ⟨-, hv, -, -⟩ := (Memory.wf_cons a v rest).mp hm
  simpa [Memory.read] using hv

/-- The first cell of a memory is at or below any address that does not read as unlisted. -/
theorem Memory.head_le_of_read_ne_unlisted {a b : Nat} {v : Byte} {rest : Memory} (hm : Memory.wf ((a, v) :: rest) = true)
    (h : Memory.read ((a, v) :: rest) b ≠ unlistedByte b) : a ≤ b := by
  refine Nat.le_of_not_lt fun hlt => h (Memory.read_below _ b ?_)
  obtain ⟨-, -, hall, -⟩ := (Memory.wf_cons a v rest).mp hm
  rw [List.all_cons, Memory.all_mono rest a b (Nat.le_of_lt hlt) hall, decide_eq_true hlt, Bool.and_self]

/-- The memory without its first cell reads as unlisted there, and elsewhere as before. -/
theorem Memory.read_tail {a : Nat} {v : Byte} {rest : Memory} (hm : Memory.wf ((a, v) :: rest) = true) (b : Nat) :
    rest.read b = if b = a then unlistedByte b else Memory.read ((a, v) :: rest) b := by
  obtain ⟨-, -, hall, -⟩ := (Memory.wf_cons a v rest).mp hm
  split
  next h => subst h; exact Memory.read_below rest b hall
  next h => simp [Memory.read, Ne.symm h]

theorem Memory.eq_of_read_eq {m n : Memory} (hm : m.wf = true) (hn : n.wf = true)
    (h : ∀ a, a < 0x1000 → m.read a = n.read a) : m = n := by
  induction m generalizing n with
  | nil =>
    cases n with
    | nil => rfl
    | cons d ns =>
      obtain ⟨hb, -, -, -⟩ := (Memory.wf_cons _ _ _).mp hn
      exact absurd (h _ hb).symm (Memory.read_head_ne_unlisted hn)
  | cons c ms ih =>
    obtain ⟨a, v⟩ := c
    obtain ⟨ha, -, -, hms⟩ := (Memory.wf_cons _ _ _).mp hm
    have hne := Memory.read_head_ne_unlisted hm
    cases n with
    | nil => exact absurd (h a ha) hne
    | cons d ns =>
      obtain ⟨b, w⟩ := d
      obtain ⟨hb, -, -, hns⟩ := (Memory.wf_cons _ _ _).mp hn
      have hba : b ≤ a := Memory.head_le_of_read_ne_unlisted hn (h a ha ▸ hne)
      have hab : a ≤ b := Memory.head_le_of_read_ne_unlisted hm (h b hb ▸ Memory.read_head_ne_unlisted hn)
      obtain rfl : a = b := Nat.le_antisymm hab hba
      have hvw : v = w := by simpa [Memory.read] using h a ha
      have hrest : ms = ns := ih hms hns fun k hk => by rw [Memory.read_tail hm, Memory.read_tail hn, h k hk]
      rw [hvw, hrest]

end Sys2Proof.Machine

namespace Sys2Proof.Certificates
open Sys2Proof Sys2Proof.Machine

/-- Settles O53: the load by the length of the image. -/
theorem loadWritesTheImage : Obligations.LoadWritesTheImage := by
  intro s image hm
  refine ⟨_, rfl, fun hlen => ?_, fun hlen => ⟨fun k hk => ?_, ?_⟩⟩
  · rw [s.load_of_too_long hlen]
    exact s.raise_takesFault _ _ _
  · exact State.load_byteAt_image hm hlen hk
  · exact State.load_onlyChanges_image hm hlen

/-- Settles O54: the reset operation element by element, its memory by region. -/
theorem resetGivesTheResetState : Obligations.ResetGivesTheResetState := by
  intro s
  refine ⟨_, rfl, s.resetOp_getV, rfl, rfl, rfl, s.resetOp_stackAt, rfl, rfl, Display.get_blank, fun a h => ?_, fun a h => ?_,
    rfl, fun _ => rfl, rfl⟩
  · rw [s.resetOp_byteAt, resetMem_read _ _ a.isLt, dif_pos h]
  · rw [s.resetOp_byteAt, resetMem_read _ _ a.isLt, dif_neg (Nat.not_lt.mpr h)]

/-- Settles O56: one key is set, and the byte is appended to those that wait. -/
theorem hostInputs : Obligations.HostInputs := by
  intro s k down b
  constructor
  · exact ⟨_, rfl, by simp, s.keySet_onlyChanges k down⟩
  · exact ⟨_, rfl, rfl, s.rndSupply_onlyChanges b⟩

/-- Settles O58: by induction on the cells, whose first addresses agree since neither reads as unlisted there. -/
theorem equalMemoriesAreEqualData : Obligations.EqualMemoriesAreEqualData :=
  fun _ _ hm hn h => Memory.eq_of_read_eq hm hn fun a ha => h (BitVec.ofFin ⟨a, ha⟩)

end Sys2Proof.Certificates
end

section
/-! SUPPORT. The illegal words (30_encoding.md R86) as conditions on the fields, and the opcode map (R85): what a mask and match
say of a word's fields, and that the row a word fits is the row of the instruction it decodes to. -/

namespace Sys2Proof

section
variable (op : Word)

/-! ### the illegal groups -/

theorem div_eq_topNibble : op.toNat / 0x1000 = (topNibble op).toNat := by
  have := op.isLt
  rw [topNibble_toNat]; omega

theorem mod_eq_fieldN : op.toNat % 0x10 = (fieldN op).toNat := by
  rw [fieldN_toNat, Nat.div_one]

theorem mod_eq_fieldKK : op.toNat % 0x100 = (fieldKK op).toNat := by
  rw [fieldKK_toNat, Nat.div_one]

/-- The word decodes to no instruction. -/
def Decoded.IsUnknown (d : Decoded) : Prop := ∃ why, d = .unknown why

@[simp] theorem Decoded.isUnknown_unknown (why : Reject) : (Decoded.unknown why).IsUnknown := ⟨why, rfl⟩

@[simp] theorem Decoded.not_isUnknown_ins (i : Instr) : ¬(Decoded.ins i).IsUnknown := by rintro ⟨_, ⟨⟩⟩

/-- A test of the decoder that fails leaves the word to the tests after it. -/
theorem isUnknown_ite_iff (p : Prop) [Decidable p] (i : Instr) (d : Decoded) :
    (if p then Decoded.ins i else d).IsUnknown ↔ ¬p ∧ d.IsUnknown := by
  by_cases h : p
  · simp [h]
  · simp [h]

theorem decodeGroup8_isUnknown_iff (x y n : Nibble) :
    (decodeGroup8 x y n).IsUnknown ↔ n.toNat ∈ [0x8, 0x9, 0xA, 0xB, 0xC, 0xD, 0xF] := by
  obtain h | h | h | h | h | h | h | h | h | h | h | h | h | h | h | h := nibble_cases n <;> simp [h, decodeGroup8]

theorem decodeGroupE_isUnknown_iff (x : Nibble) (kk : Byte) :
    (decodeGroupE x kk).IsUnknown ↔ kk.toNat ∉ [0x9E, 0xA1] := by
  simp [decodeGroupE, isUnknown_ite_iff, BitVec.toNat_eq]

theorem decodeGroupF_isUnknown_iff (x : Nibble) (kk : Byte) :
    (decodeGroupF x kk).IsUnknown ↔ kk.toNat ∉ [0x07, 0x0A, 0x15, 0x18, 0x1E, 0x29, 0x33, 0x55, 0x65] := by
  simp [decodeGroupF, isUnknown_ite_iff, BitVec.toNat_eq]

/-- The illegal words by their fields: the top nibble, then n or kk. -/
theorem decodeWord_isUnknown_iff : (decodeWord op).IsUnknown ↔
    ((topNibble op).toNat = 0x5 ∧ (fieldN op).toNat ≠ 0) ∨
    ((topNibble op).toNat = 0x8 ∧ (fieldN op).toNat ∈ [0x8, 0x9, 0xA, 0xB, 0xC, 0xD, 0xF]) ∨
    ((topNibble op).toNat = 0x9 ∧ (fieldN op).toNat ≠ 0) ∨
    ((topNibble op).toNat = 0xE ∧ (fieldKK op).toNat ∉ [0x9E, 0xA1]) ∨
    ((topNibble op).toNat = 0xF ∧ (fieldKK op).toNat ∉ [0x07, 0x0A, 0x15, 0x18, 0x1E, 0x29, 0x33, 0x55, 0x65]) := by
  obtain t | t | t | t | t | t | t | t | t | t | t | t | t | t | t | t := nibble_cases (topNibble op)
  · rw [decodeWord_top0 op t, decodeGroup0, isUnknown_ite_iff, isUnknown_ite_iff]; simp [t]
  · simp [t, decodeWord_top1 op t]
  · simp [t, decodeWord_top2 op t]
  · simp [t, decodeWord_top3 op t]
  · simp [t, decodeWord_top4 op t]
  · rw [decodeWord_top5 op t, isUnknown_ite_iff]; simp [t, BitVec.toNat_eq]
  · simp [t, decodeWord_top6 op t]
  · simp [t, decodeWord_top7 op t]
  · rw [decodeWord_top8 op t, decodeGroup8_isUnknown_iff]; simp [t]
  · rw [decodeWord_top9 op t, isUnknown_ite_iff]; simp [t, BitVec.toNat_eq]
  · simp [t, decodeWord_topA op t]
  · simp [t, decodeWord_topB op t]
  · simp [t, decodeWord_topC op t]
  · simp [t, decodeWord_topD op t]
  · rw [decodeWord_topE op t, decodeGroupE_isUnknown_iff]; simp [t]
  · rw [decodeWord_topF op t, decodeGroupF_isUnknown_iff]; simp [t]

/-! ### the rows of the opcode map -/

/-! A mask that keeps a field: a word that fits the row has the field of the row's match. The masks of R85 are of four shapes,
and keep the top nibble, or it and n, or it and kk, or the whole word. -/

theorem topNibble_of_matches {v : Word} (h : Row.matches ⟨0xF000, v⟩ op = true) : topNibble op = topNibble v := by
  obtain rfl : op &&& 0xF000 = v := eq_of_beq h
  rw [← wordFA_fields op, Laws.wordFA_mask, topNibble_FA, topNibble_FA]

theorem fields_of_matches_n {v : Word} (h : Row.matches ⟨0xF00F, v⟩ op = true) :
    topNibble op = topNibble v ∧ fieldN op = fieldN v := by
  obtain rfl : op &&& 0xF00F = v := eq_of_beq h
  rw [← wordFXYN_fields op, Laws.wordFXYN_maskN]
  simp

theorem fields_of_matches_kk {v : Word} (h : Row.matches ⟨0xF0FF, v⟩ op = true) :
    topNibble op = topNibble v ∧ fieldKK op = fieldKK v := by
  obtain rfl : op &&& 0xF0FF = v := eq_of_beq h
  rw [← wordFXK_fields op, Laws.wordFXK_maskKK]
  simp

theorem eq_of_matches_all {v : Word} (h : Row.matches ⟨0xFFFF, v⟩ op = true) : op = v :=
  BitVec.and_allOnes.symm.trans (eq_of_beq h)

/-- A word that fits a row, other than the two of CLS and RET, decodes to an instruction of that row. -/
theorem decodeWord_of_row_matches {op : Word} {j : Instr} (h : j.row.matches op = true) (hcls : op ≠ 0x00E0#16)
    (hret : op ≠ 0x00EE#16) : ∃ i, decodeWord op = .ins i ∧ i.row = j.row := by
  cases j with
  | cls => exact absurd (eq_of_matches_all op h) hcls
  | ret => exact absurd (eq_of_matches_all op h) hret
  | sys _ =>
    refine ⟨.sys (fieldNNN op), ?_, rfl⟩
    rw [decodeWord_top0 op (topNibble_of_matches op h), decodeGroup0, if_neg hcls, if_neg hret]
  | jp _ => exact ⟨_, decodeWord_top1 op (topNibble_of_matches op h), rfl⟩
  | call _ => exact ⟨_, decodeWord_top2 op (topNibble_of_matches op h), rfl⟩
  | seImm _ _ => exact ⟨_, decodeWord_top3 op (topNibble_of_matches op h), rfl⟩
  | sneImm _ _ => exact ⟨_, decodeWord_top4 op (topNibble_of_matches op h), rfl⟩
  | ldImm _ _ => exact ⟨_, decodeWord_top6 op (topNibble_of_matches op h), rfl⟩
  | addImm _ _ => exact ⟨_, decodeWord_top7 op (topNibble_of_matches op h), rfl⟩
  | ldI _ => exact ⟨_, decodeWord_topA op (topNibble_of_matches op h), rfl⟩
  | jpV0 _ => exact ⟨_, decodeWord_topB op (topNibble_of_matches op h), rfl⟩
  | rnd _ _ => exact ⟨_, decodeWord_topC op (topNibble_of_matches op h), rfl⟩
  | drw _ _ _ => exact ⟨_, decodeWord_topD op (topNibble_of_matches op h), rfl⟩
  | seReg _ _ =>
    obtain ⟨ht, hn⟩ := fields_of_matches_n op h
    exact ⟨_, (decodeWord_top5 op ht).trans (if_pos hn), rfl⟩
  | sneReg _ _ =>
    obtain ⟨ht, hn⟩ := fields_of_matches_n op h
    exact ⟨_, (decodeWord_top9 op ht).trans (if_pos hn), rfl⟩
  | ldReg _ _ | orReg _ _ | andReg _ _ | xorReg _ _ | addReg _ _ | subReg _ _ | shr _ _ | subnReg _ _ | shl _ _ =>
    obtain ⟨ht, hn⟩ := fields_of_matches_n op h
    exact ⟨_, (decodeWord_top8 op ht).trans (congrArg (decodeGroup8 _ _) hn), rfl⟩
  | skp _ | sknp _ =>
    obtain ⟨ht, hkk⟩ := fields_of_matches_kk op h
    exact ⟨_, (decodeWord_topE op ht).trans (congrArg (decodeGroupE _) hkk), rfl⟩
  | addI _ | stRegs _ | ldRegs _ | ldKey _ | ldVxDT _ | ldDT _ | ldST _ | ldF _ | ldB _ =>
    obtain ⟨ht, hkk⟩ := fields_of_matches_kk op h
    exact ⟨_, (decodeWord_topF op ht).trans (congrArg (decodeGroupF _) hkk), rfl⟩

theorem Instr.row_mem_opcodeTable (i : Instr) : i.row ∈ opcodeTable := by
  cases i <;> simp [opcodeTable, rowHeads, Instr.row]

/-- The rows of the map are the rows of the instructions. -/
theorem mem_opcodeTable_iff {r : Row} : r ∈ opcodeTable ↔ ∃ i : Instr, i.row = r := by
  constructor
  · intro h
    obtain ⟨i, -, hi⟩ := List.mem_map.mp h
    exact ⟨i, hi⟩
  · rintro ⟨i, rfl⟩
    exact i.row_mem_opcodeTable

open Laws in
theorem row_matches_encode : ∀ i : Instr, i.row.matches (encode i) = true
  | .sys nnn => EncodeRow.sys nnn
  | .cls => EncodeRow.cls
  | .ret => EncodeRow.ret
  | .jp nnn => EncodeRow.jp nnn
  | .call nnn => EncodeRow.call nnn
  | .jpV0 nnn => EncodeRow.jpV0 nnn
  | .seImm x kk => EncodeRow.seImm x kk
  | .sneImm x kk => EncodeRow.sneImm x kk
  | .seReg x y => EncodeRow.seReg x y
  | .sneReg x y => EncodeRow.sneReg x y
  | .ldImm x kk => EncodeRow.ldImm x kk
  | .addImm x kk => EncodeRow.addImm x kk
  | .ldReg x y => EncodeRow.ldReg x y
  | .orReg x y => EncodeRow.orReg x y
  | .andReg x y => EncodeRow.andReg x y
  | .xorReg x y => EncodeRow.xorReg x y
  | .addReg x y => EncodeRow.addReg x y
  | .subReg x y => EncodeRow.subReg x y
  | .shr x y => EncodeRow.shr x y
  | .subnReg x y => EncodeRow.subnReg x y
  | .shl x y => EncodeRow.shl x y
  | .rnd x kk => EncodeRow.rnd x kk
  | .ldI nnn => EncodeRow.ldI nnn
  | .addI x => EncodeRow.addI x
  | .stRegs x => EncodeRow.stRegs x
  | .ldRegs x => EncodeRow.ldRegs x
  | .drw x y n => EncodeRow.drw x y n
  | .skp x => EncodeRow.skp x
  | .sknp x => EncodeRow.sknp x
  | .ldKey x => EncodeRow.ldKey x
  | .ldVxDT x => EncodeRow.ldVxDT x
  | .ldDT x => EncodeRow.ldDT x
  | .ldST x => EncodeRow.ldST x
  | .ldF x => EncodeRow.ldF x
  | .ldB x => EncodeRow.ldB x

/-- A word that decodes fits the row of its instruction, whose encoding it is. -/
theorem row_matches_of_decodeWord {op : Word} {i : Instr} (h : decodeWord op = .ins i) : i.row.matches op = true := by
  obtain ⟨-, rfl⟩ := isWordOf_of_decodeWord h
  exact row_matches_encode i

/-- No row fits an illegal word: a word that fits a row decodes, 0x00E0 and 0x00EE to CLS and RET. -/
theorem row_not_matches_of_unknown {op : Word} {why : Reject} (h : decodeWord op = .unknown why) (j : Instr) :
    j.row.matches op = false := by
  refine Bool.eq_false_iff.mpr fun hmatches => ?_
  have hcls : op ≠ 0x00E0 := by rintro rfl; cases h
  have hret : op ≠ 0x00EE := by rintro rfl; cases h
  obtain ⟨i, hi, -⟩ := decodeWord_of_row_matches hmatches hcls hret
  cases h.symm.trans hi

end
end Sys2Proof

namespace Sys2Proof.Certificates
open Sys2Proof Sys2Proof.Machine

/-- Settles O3: the illegal words by their fields, which are the quotient and the remainders of the statement. -/
theorem illegalWordsAreTheFiveGroups : Obligations.IllegalWordsAreTheFiveGroups := by
  intro op
  rw [div_eq_topNibble, mod_eq_fieldN, mod_eq_fieldKK]
  exact decodeWord_isUnknown_iff op

/-- Settles O4: two rows that fit a word are both the row of the one instruction that it decodes to. -/
theorem decodeFollowsTheOpcodeMap : Obligations.DecodeFollowsTheOpcodeMap := by
  refine ⟨fun op => ⟨?_, fun hnone => ?_⟩, fun op i h => ⟨i.row_mem_opcodeTable, row_matches_of_decodeWord h⟩, ?_, rfl, rfl⟩
  · rintro ⟨why, h⟩ r hr
    obtain ⟨j, rfl⟩ := mem_opcodeTable_iff.mp hr
    exact row_not_matches_of_unknown h j
  · cases hd : decodeWord op with
    | unknown why => exact ⟨why, rfl⟩
    | ins i => exact absurd (row_matches_of_decodeWord hd) (by simp [hnone _ i.row_mem_opcodeTable])
  · intro op r₁ hr₁ r₂ hr₂ h₁ h₂
    obtain ⟨j₁, rfl⟩ := mem_opcodeTable_iff.mp hr₁
    obtain ⟨j₂, rfl⟩ := mem_opcodeTable_iff.mp hr₂
    by_cases hcls : op = 0x00E0
    · exact .inr (.inl hcls)
    by_cases hret : op = 0x00EE
    · exact .inr (.inr hret)
    obtain ⟨i₁, hi₁, hrow₁⟩ := decodeWord_of_row_matches h₁ hcls hret
    obtain ⟨i₂, hi₂, hrow₂⟩ := decodeWord_of_row_matches h₂ hcls hret
    cases hi₁.symm.trans hi₂
    exact .inl (hrow₁.symm.trans hrow₂)

/-- Settles O5 by running the decoder on each word. -/
theorem writtenOutWordsDecode : Obligations.WrittenOutWordsDecode := by
  unfold Obligations.WrittenOutWordsDecode
  decide

end Sys2Proof.Certificates
end

section
/-! SUPPORT. The instructions of 43_load_arith.md that write a result, or a result and a flag (R141 to R151), as their updates, and
each flag as the number that its rule gives. -/

namespace Sys2Proof.Machine

section
variable (s : State) (x y : Nibble)

theorem exec_addImm (kk : Byte) :
    exec (.addImm x kk) s = .next (s.setV x (BitVec.ofNat 8 ((s.getV x).toNat + kk.toNat))).done := rfl

theorem exec_orReg : exec (.orReg x y) s = .next (s.setLogic x (s.getV x ||| s.getV y)).done := rfl

theorem exec_andReg : exec (.andReg x y) s = .next (s.setLogic x (s.getV x &&& s.getV y)).done := rfl

theorem exec_xorReg : exec (.xorReg x y) s = .next (s.setLogic x (s.getV x ^^^ s.getV y)).done := rfl

theorem exec_subReg : exec (.subReg x y) s =
    .next (s.setResultFlag x (s.getV x - s.getV y) (noBorrowFlag (s.getV x) (s.getV y))).done := rfl

theorem exec_subnReg : exec (.subnReg x y) s =
    .next (s.setResultFlag x (s.getV y - s.getV x) (noBorrowFlag (s.getV y) (s.getV x))).done := rfl

theorem exec_shr : exec (.shr x y) s =
    .next (s.setResultFlag x (s.shiftOperand x y >>> 1) (shrFlag (s.shiftOperand x y))).done := rfl

theorem exec_shl : exec (.shl x y) s =
    .next (s.setResultFlag x (s.shiftOperand x y <<< 1) (shlFlag (s.shiftOperand x y))).done := rfl

theorem exec_rnd (kk : Byte) : exec (.rnd x kk) s = .next (s.drawn.setV x (s.rndByte &&& kk)).done := rfl

theorem State.setLogic_done_getV_result (b : Byte) (h : x ≠ vF ∨ s.params.logicResetsVF = false) :
    (s.setLogic x b).done.getV x = b := by
  have hreset : ¬(s.params.logicResetsVF = true ∧ x = vF) := by
    rintro ⟨hp, rfl⟩
    simp [hp] at h
  rw [State.done_getV, s.setLogic_getV, if_neg hreset, if_pos rfl]

theorem State.setLogic_done_getV_vF (b : Byte) (h : s.params.logicResetsVF = true) : (s.setLogic x b).done.getV vF = 0 := by
  rw [State.done_getV, s.setLogic_getV, if_pos ⟨h, rfl⟩]

theorem State.setLogic_done_onlyChanges (b : Byte) :
    OnlyChanges (writes (if s.params.logicResetsVF then [.v x, .v vF] else [.v x])) s (s.setLogic x b).done := by
  refine (s.setLogic_onlyChanges x b).finish_writes ?_ _
  rintro p (⟨hp, rfl⟩ | rfl)
  · simp [hp]
  · split <;> simp

/-- The logic instructions are their operation bit by bit. -/
theorem exec_logic {i : Instr} {f : Bool → Bool → Bool}
    (h : (i = .orReg x y ∧ f = or) ∨ (i = .andReg x y ∧ f = and) ∨ (i = .xorReg x y ∧ f = xor)) :
    ∃ b : Byte, exec i s = .next (s.setLogic x b).done ∧
      ∀ k : Nat, b.getLsbD k = f ((s.getV x).getLsbD k) ((s.getV y).getLsbD k) := by
  obtain ⟨rfl, rfl⟩ | ⟨rfl, rfl⟩ | ⟨rfl, rfl⟩ := h
  · exact ⟨_, exec_orReg s x y, fun _ => BitVec.getLsbD_or⟩
  · exact ⟨_, exec_andReg s x y, fun _ => BitVec.getLsbD_and⟩
  · exact ⟨_, exec_xorReg s x y, fun _ => BitVec.getLsbD_xor⟩

/-- SUB and SUBN are one subtraction, with the operands in either order. -/
theorem exec_subtract {i : Instr} {a b : Byte}
    (h : (i = .subReg x y ∧ a = s.getV x ∧ b = s.getV y) ∨ (i = .subnReg x y ∧ a = s.getV y ∧ b = s.getV x)) :
    exec i s = .next (s.setResultFlag x (a - b) (noBorrowFlag a b)).done := by
  obtain ⟨rfl, rfl, rfl⟩ | ⟨rfl, rfl, rfl⟩ := h
  · exact exec_subReg s x y
  · exact exec_subnReg s x y

theorem State.shiftOperand_eq {a : Byte}
    (h : (s.params.shiftSource = .vx ∧ a = s.getV x) ∨ (s.params.shiftSource = .vy ∧ a = s.getV y)) :
    s.shiftOperand x y = a := by
  obtain ⟨hp, rfl⟩ | ⟨hp, rfl⟩ := h <;> simp only [State.shiftOperand, hp]

theorem State.rndByte_of_supplied {b : Byte} {rest : List Byte} (h : s.rndIn = b :: rest) : s.rndByte = b := by
  simp only [State.rndByte, h]

theorem State.rndByte_of_none (h : s.rndIn = []) : s.rndByte = Config.rndByte s.rndDraws := by
  simp only [State.rndByte, h]

theorem State.drawn_setV_done_onlyChanges (b : Byte) :
    OnlyChanges (writes [.v x, .rndIn, .rndDraws]) s (s.drawn.setV x b).done :=
  (s.drawn_onlyChanges.andThen (s.drawn.setV_onlyChanges x b)).finish_writes (by simp) _

end

section
variable (a b : Byte)

theorem noBorrowFlag_eq : noBorrowFlag a b = if a.toNat ≥ b.toNat then 1 else 0 := flag_decide _

theorem toNat_sub_eq_mod : (a - b).toNat = (256 + a.toNat - b.toNat) % 256 := by
  have := b.isLt
  rw [BitVec.toNat_sub]
  omega

theorem toNat_flag_decide_one (n : Nat) (hn : n < 2) : (flag (decide (n = 1))).toNat = n := by
  obtain rfl | rfl : n = 0 ∨ n = 1 := by omega
  · rfl
  · rfl

theorem shrFlag_toNat : (shrFlag a).toNat = a.toNat % 2 := by
  have hbit : a.getLsbD 0 = decide (a.toNat % 2 = 1) := by simp [BitVec.getLsbD, Nat.testBit_zero]
  rw [shrFlag, hbit, toNat_flag_decide_one _ (by omega)]

theorem shlFlag_toNat : (shlFlag a).toNat = a.toNat / 128 := by
  have := a.isLt
  have hbit : a.getLsbD 7 = decide (a.toNat / 128 = 1) := by
    rw [BitVec.getLsbD, Nat.testBit_eq_decide_div_mod_eq]
    simp only [decide_eq_decide]
    omega
  rw [shlFlag, hbit, toNat_flag_decide_one _ (by omega)]

theorem toNat_shiftRight_one : (a >>> 1).toNat = a.toNat / 2 := by
  rw [BitVec.toNat_ushiftRight, Nat.shiftRight_eq_div_pow, Nat.pow_one]

theorem toNat_shiftLeft_one : (a <<< 1).toNat = a.toNat * 2 % 256 := by
  rw [BitVec.toNat_shiftLeft, Nat.shiftLeft_eq, Nat.pow_one]

end
end Sys2Proof.Machine

namespace Sys2Proof.Certificates
open Sys2Proof Sys2Proof.Machine

/-- Settles O34: one register write, of the sum of the two bytes. -/
theorem addImmediateWritesNoFlag : Obligations.AddImmediateWritesNoFlag := by
  intro s x kk
  refine ⟨_, exec_addImm s x kk, State.done_completedAt _, ?_, s.setV_done_onlyChanges x _⟩
  rw [s.setV_done_getV x, BitVec.toNat_ofNat]

/-- Settles O35: the three instructions write the byte of their operation, and VF by the parameter. -/
theorem logicOperations : Obligations.LogicOperations := by
  intro s x y i f hi
  obtain ⟨b, hexec, hbits⟩ := exec_logic s x y hi
  refine ⟨_, hexec, ?_, fun h k => ?_, s.setLogic_done_getV_vF x b, s.setLogic_done_onlyChanges x b⟩
  · exact s.setLogic_pc x b ▸ State.done_completedAt _
  · rw [s.setLogic_done_getV_result x b h]
    exact hbits k

/-- Settles O37: the difference, then the flag, so VF holds the flag even when x is VF. -/
theorem subtractSetsNoBorrow : Obligations.SubtractSetsNoBorrow := by
  intro s x y i a b hi
  refine ⟨_, exec_subtract s x y hi, State.done_completedAt _, fun hx => ?_, ?_, s.setResultFlag_done_onlyChanges x _ _⟩
  · rw [s.setResultFlag_done_getV_result x hx, toNat_sub_eq_mod]
  · rw [s.setResultFlag_done_getV_vF, noBorrowFlag_eq]

/-- Settles O38: half the operand, then its bit 0. -/
theorem shiftRightSetsBitZero : Obligations.ShiftRightSetsBitZero := by
  intro s x y a ha
  obtain rfl := s.shiftOperand_eq x y ha
  refine ⟨_, exec_shr s x y, State.done_completedAt _, fun hx => ?_, ?_, s.setResultFlag_done_onlyChanges x _ _⟩
  · rw [s.setResultFlag_done_getV_result x hx, toNat_shiftRight_one]
  · rw [s.setResultFlag_done_getV_vF, shrFlag_toNat]

/-- Settles O39: twice the operand, then its bit 7. -/
theorem shiftLeftSetsBitSeven : Obligations.ShiftLeftSetsBitSeven := by
  intro s x y a ha
  obtain rfl := s.shiftOperand_eq x y ha
  refine ⟨_, exec_shl s x y, State.done_completedAt _, fun hx => ?_, ?_, s.setResultFlag_done_onlyChanges x _ _⟩
  · rw [s.setResultFlag_done_getV_result x hx, toNat_shiftLeft_one]
  · rw [s.setResultFlag_done_getV_vF, shlFlag_toNat]

/-- Settles O40: the byte drawn is the queue's first or the free value of this draw. -/
theorem rndDrawsAByte : Obligations.RndDrawsAByte := by
  intro s x kk
  constructor
  · intro b rest h
    refine ⟨_, exec_rnd s x kk, State.done_completedAt _, ?_, congrArg List.tail h, rfl, s.drawn_setV_done_onlyChanges x _⟩
    rw [s.drawn.setV_done_getV x, s.rndByte_of_supplied h]
  · intro h
    refine ⟨_, exec_rnd s x kk, State.done_completedAt _, ?_, congrArg List.tail h, rfl, s.drawn_setV_done_onlyChanges x _⟩
    rw [s.drawn.setV_done_getV x, s.rndByte_of_none h]

end Sys2Proof.Certificates
end

section
/-! SUPPORT. ADD I and LD F (44_memory_index.md R171; 48_bcd_font.md R210) as updates of I, and the keypad's instructions
(46_input.md R190 to R192). -/

namespace Sys2Proof.Machine

section
variable (s : State) (x : Nibble)

theorem exec_addI : exec (.addI x) s = .next (s.setI (s.wrapI (s.i.toNat + (s.getV x).toNat))).done := rfl

theorem exec_ldF : exec (.ldF x) s = .next (s.setI (BitVec.ofNat 16 ((s.lowNibble x).toNat * 5))).done := rfl

theorem exec_skp : exec (.skp x) s = .next (s.skipIf (s.keyDown (s.lowNibble x))) := rfl

theorem exec_sknp : exec (.sknp x) s = .next (s.skipIf (!s.keyDown (s.lowNibble x))) := rfl

theorem State.wrapI_toNat_of_bits16 (n : Nat) (h : s.params.addIWrap = .bits16) : (s.wrapI n).toNat = n % 0x10000 := by
  simp only [State.wrapI, h, BitVec.toNat_ofNat]

theorem State.wrapI_toNat_of_bits12 (n : Nat) (h : s.params.addIWrap = .bits12) : (s.wrapI n).toNat = n % 0x1000 := by
  simp only [State.wrapI, h, BitVec.toNat_ofNat]
  omega

theorem State.lowNibble_toNat : (s.lowNibble x).toNat = (s.getV x).toNat % 16 := BitVec.toNat_setWidth 4 (s.getV x)

/-- The lowest-numbered key that is down is the one LD Vx, K takes. -/
theorem State.lowestKey_eq_some {k : Nibble} (hk : s.keyDown k = true) (hlow : ∀ j : Nibble, j < k → s.keyDown j = false) :
    s.lowestKey = some k.toNat := by
  cases h : s.lowestKey with
  | none => exact absurd hk (Bool.eq_false_iff.mp (s.lowestKey_none.mp h k.toNat k.isLt))
  | some m =>
    obtain ⟨hm, hdown, hup⟩ := s.lowestKey_some h
    obtain hlt | heq | hgt := Nat.lt_trichotomy m k.toNat
    · exact absurd hdown (Bool.eq_false_iff.mp (hlow (BitVec.ofFin ⟨m, hm⟩) hlt))
    · rw [heq]
    · exact absurd hk (Bool.eq_false_iff.mp (hup k.toNat hgt))

end
end Sys2Proof.Machine

namespace Sys2Proof.Certificates
open Sys2Proof Sys2Proof.Machine

/-- Settles O42: the sum wraps at the width of the parameter. -/
theorem addIndexWraps : Obligations.AddIndexWraps := by
  intro s x
  exact ⟨_, exec_addI s x, State.done_completedAt _, s.wrapI_toNat_of_bits16 _, s.wrapI_toNat_of_bits12 _,
    s.setI_done_onlyChanges _⟩

/-- Settles O50: the address of a glyph is below 0x10000, so nothing of it is lost. -/
theorem loadFontAddress : Obligations.LoadFontAddress := by
  intro s x
  refine ⟨_, exec_ldF s x, State.done_completedAt _, ?_, s.setI_done_onlyChanges _⟩
  rw [s.setI_done_i, BitVec.toNat_ofNat, s.lowNibble_toNat]
  omega

/-- Settles O47: the two skips finish on the key and on its negation. -/
theorem skipOnKey : Obligations.SkipOnKey := by
  intro s x k hk
  obtain rfl : k = s.lowNibble x := BitVec.eq_of_toNat_eq (hk.trans (s.lowNibble_toNat x).symm)
  constructor
  · exact ⟨_, exec_skp s x, s.skipIf_completedAt Iff.rfl, s.skipIf_onlyChanges _⟩
  · refine ⟨_, exec_sknp s x, ?_, s.skipIf_onlyChanges _⟩
    have hcompleted := s.skipIf_completedAt (c := !s.keyDown (s.lowNibble x)) (p := ¬s.keyDown (s.lowNibble x) = true) (by simp)
    rwa [ite_not] at hcompleted

/-- Settles O48: the key taken is the lowest that is down, and there is none exactly when all are up. -/
theorem ldKeyTakesTheLowestKeyOrHolds : Obligations.LdKeyTakesTheLowestKeyOrHolds := by
  intro s x
  constructor
  · intro k hk hlow
    refine ⟨_, exec_ldKey_of_lowest s x (s.lowestKey_eq_some hk hlow), State.done_completedAt _, ?_,
      s.setV_done_onlyChanges x _⟩
    have := k.isLt
    rw [s.setV_done_getV x, BitVec.toNat_ofNat]
    omega
  · intro hup
    have hnone : s.lowestKey = none := s.lowestKey_none.mpr fun k hk => hup (BitVec.ofFin ⟨k, hk⟩)
    exact ⟨_, exec_ldKey_of_none s x hnone, rfl, s.hold_onlyChanges⟩

end Sys2Proof.Certificates
end

section
/-! SUPPORT. DRW (45_draw.md R181): the loop over rows and columns, followed bit by bit as the set of pixels that the bits drawn
so far invert, which at the end is the closed form `State.spriteBitAt`. -/

namespace Sys2Proof.Machine

/-! ### a drawing and the pixels it inverts -/

/-- The drawing is `d` with the pixels of `inverted` inverted, and it has collided if one of them was set. -/
structure Drawing.Inverts (d : Display) (inverted : Fin 64 → Fin 32 → Bool) (g : Drawing) : Prop where
  pixel : ∀ px py, g.1.get px py = (d.get px py ^^ inverted px py)
  collision : g.2 = true ↔ ∃ px py, d.get px py = true ∧ inverted px py = true

theorem Drawing.inverts_none (d : Display) : Drawing.Inverts d (fun _ _ => false) (d, false) :=
  ⟨by simp, by simp⟩

/-- A bit drawn at a pixel not inverted so far inverts it if set. -/
theorem Drawing.Inverts.drawBit {d : Display} {inverted : Fin 64 → Fin 32 → Bool} {g : Drawing}
    (h : Drawing.Inverts d inverted g) {px : Fin 64} {py : Fin 32} (hfresh : inverted px py = false) (bit : Bool) :
    Drawing.Inverts d (fun x y => inverted x y || (bit && decide (x = px ∧ y = py))) (drawBit g px py bit) := by
  cases bit with
  | false => simpa [Machine.drawBit] using h
  | true =>
    constructor
    · intro x y
      rw [drawBit_get, h.pixel x y]
      by_cases hxy : x = px ∧ y = py
      · obtain ⟨rfl, rfl⟩ := hxy
        simp [hfresh]
      · simp [hxy]
    · have hpixel : g.1.get px py = d.get px py := by rw [h.pixel, hfresh, Bool.xor_false]
      rw [drawBit_collide, Bool.or_eq_true, h.collision, Bool.true_and, hpixel]
      constructor
      · rintro (⟨x, y, hset, hinv⟩ | hset)
        · exact ⟨x, y, hset, by simp [hinv]⟩
        · exact ⟨px, py, hset, by simp⟩
      · rintro ⟨x, y, hset, hinv⟩
        obtain hinv | ⟨rfl, rfl⟩ : inverted x y = true ∨ (x = px ∧ y = py) := by simpa using hinv
        · exact .inl ⟨x, y, hset, hinv⟩
        · exact .inr hset

/-! ### distances from the origin -/

/-- The sprite column that falls on display column `px`. -/
def colDist (cx : Nat) (px : Fin 64) : Nat := (px.val + 64 - cx % 64) % 64

/-- The sprite row that falls on display row `py`. -/
def rowDist (cy : Nat) (py : Fin 32) : Nat := (py.val + 32 - cy % 32) % 32

theorem eq_ofNat_iff_colDist {cx col : Nat} (hcol : col < 64) (px : Fin 64) :
    px = Fin.ofNat 64 (cx + col) ↔ colDist cx px = col := by
  have := px.isLt
  rw [Fin.ext_iff, Fin.val_ofNat, colDist]
  omega

theorem eq_ofNat_iff_rowDist {cy row : Nat} (hrow : row < 32) (py : Fin 32) :
    py = Fin.ofNat 32 (cy + row) ↔ rowDist cy py = row := by
  have := py.isLt
  rw [Fin.ext_iff, Fin.val_ofNat, rowDist]
  omega

/-! ### the loops -/

/-- The pixels inverted when rows 0 to `row - 1` of the sprite, and columns 0 to `col - 1` of row `row`, have been drawn. -/
def spriteDrawn (sprite : Nat → Byte) (cx cy row col : Nat) (px : Fin 64) (py : Fin 32) : Bool :=
  decide ((rowDist cy py < row ∧ colDist cx px < 8) ∨ (rowDist cy py = row ∧ colDist cx px < col)) &&
    (sprite (rowDist cy py)).getLsbD (7 - colDist cx px)

section
variable (sprite : Nat → Byte) (cx cy : Nat)

theorem spriteDrawn_start : spriteDrawn sprite cx cy 0 0 = fun _ _ => false := by
  funext px py
  simp [spriteDrawn]

theorem spriteDrawn_full_row (row : Nat) : spriteDrawn sprite cx cy row 8 = spriteDrawn sprite cx cy (row + 1) 0 := by
  funext px py
  unfold spriteDrawn
  congr 2
  simp only [eq_iff_iff]
  omega

/-- The next bit falls on a pixel that none before it has inverted. -/
theorem spriteDrawn_next_fresh {row col : Nat} (hrow : row < 32) (hcol : col < 64) :
    spriteDrawn sprite cx cy row col (Fin.ofNat 64 (cx + col)) (Fin.ofNat 32 (cy + row)) = false := by
  have hc : colDist cx (Fin.ofNat 64 (cx + col)) = col := (eq_ofNat_iff_colDist hcol _).mp rfl
  have hr : rowDist cy (Fin.ofNat 32 (cy + row)) = row := (eq_ofNat_iff_rowDist hrow _).mp rfl
  rw [spriteDrawn, hc, hr]
  simp

theorem spriteDrawn_next {row col : Nat} (hrow : row < 32) (hcol : col < 64) :
    spriteDrawn sprite cx cy row (col + 1) = fun px py => spriteDrawn sprite cx cy row col px py ||
      ((sprite row).getLsbD (7 - col) && decide (px = Fin.ofNat 64 (cx + col) ∧ py = Fin.ofNat 32 (cy + row))) := by
  funext px py
  simp only [spriteDrawn, eq_ofNat_iff_colDist hcol, eq_ofNat_iff_rowDist hrow]
  by_cases h : colDist cx px = col ∧ rowDist cy py = row
  · obtain ⟨rfl, rfl⟩ := h
    simp
  · have hsame : (rowDist cy py = row ∧ colDist cx px < col + 1) ↔ (rowDist cy py = row ∧ colDist cx px < col) := by omega
    simp only [h, hsame, decide_false, Bool.and_false, Bool.or_false]

variable {d : Display} {g : Drawing}

theorem drawRow_inverts {row : Nat} (hrow : row < 32) (h : Drawing.Inverts d (spriteDrawn sprite cx cy row 0) g) :
    Drawing.Inverts d (spriteDrawn sprite cx cy (row + 1) 0) (drawRow g cx (Fin.ofNat 32 (cy + row)) (sprite row)) := by
  have hcols : ∀ n ≤ 8, Drawing.Inverts d (spriteDrawn sprite cx cy row n) ((List.range n).foldl
      (fun g col => drawBit g (Fin.ofNat 64 (cx + col)) (Fin.ofNat 32 (cy + row)) ((sprite row).getLsbD (7 - col))) g) := by
    intro n
    induction n with
    | zero => exact fun _ => h
    | succ n ih =>
      intro hn
      have hcol : n < 64 := by omega
      rw [List.range_succ, List.foldl_append, spriteDrawn_next sprite cx cy hrow hcol]
      exact (ih (by omega)).drawBit (spriteDrawn_next_fresh sprite cx cy hrow hcol) _
  rw [← spriteDrawn_full_row]
  exact hcols 8 (Nat.le_refl 8)

end

section
variable (s : State)

/-- The closed form of the sprite's bits is the set of pixels of all its rows. -/
theorem State.spriteBitAt_eq (cx cy n : Nat) :
    s.spriteBitAt cx cy n = spriteDrawn (fun row => s.memRead (s.atI row)) cx cy n 0 := by
  funext px py
  simp [State.spriteBitAt, spriteDrawn, colDist, rowDist]

theorem State.drawSprite_inverts (cx cy : Nat) {n : Nat} (hn : n ≤ 32) :
    Drawing.Inverts s.disp (s.spriteBitAt cx cy n) (s.drawSprite cx cy n) := by
  rw [s.spriteBitAt_eq]
  induction n with
  | zero => rw [spriteDrawn_start]; exact Drawing.inverts_none s.disp
  | succ n ih =>
    rw [State.drawSprite, List.range_succ, List.foldl_append]
    exact drawRow_inverts _ cx cy (by omega) (ih (by omega))

/-! ### the instruction -/

variable (x y n : Nibble)

/-- The bits of the sprite of DRW Vx, Vy, n, by the pixel they fall on. -/
def State.drwBits : Fin 64 → Fin 32 → Bool := s.spriteBitAt (s.getV x).toNat (s.getV y).toNat n.toNat

/-- The sprite of DRW Vx, Vy, n drawn on the display. -/
def State.drwDrawing : Drawing := s.drawSprite (s.getV x).toNat (s.getV y).toNat n.toNat

/-- The state after DRW Vx, Vy, n. -/
def State.afterDrw : State := ((s.setDisp (s.drwDrawing x y n).1).setV vF (flag (s.drwDrawing x y n).2)).done

theorem exec_drw : exec (.drw x y n) s = .next (s.afterDrw x y n) := rfl

theorem State.drwDrawing_inverts : Drawing.Inverts s.disp (s.drwBits x y n) (s.drwDrawing x y n) :=
  s.drawSprite_inverts _ _ (Nat.le_of_lt (Nat.lt_trans n.isLt (by decide)))

theorem State.afterDrw_get (px : Fin 64) (py : Fin 32) :
    (s.afterDrw x y n).disp.get px py = (s.disp.get px py ^^ s.drwBits x y n px py) :=
  (s.drwDrawing_inverts x y n).pixel px py

theorem State.afterDrw_vF_of_collision {px : Fin 64} {py : Fin 32} (hset : s.disp.get px py = true)
    (hbit : s.drwBits x y n px py = true) : (s.afterDrw x y n).getV vF = 1 := by
  have hcollision := (s.drwDrawing_inverts x y n).collision.mpr ⟨px, py, hset, hbit⟩
  rw [State.afterDrw, State.setV_done_getV, hcollision]
  rfl

theorem State.afterDrw_vF_of_no_collision (h : ¬∃ px py, s.disp.get px py = true ∧ s.drwBits x y n px py = true) :
    (s.afterDrw x y n).getV vF = 0 := by
  have hcollision := Bool.eq_false_iff.mpr (mt (s.drwDrawing_inverts x y n).collision.mp h)
  rw [State.afterDrw, State.setV_done_getV, hcollision]
  rfl

/-- A pixel went from set to unset exactly when it was set and a set bit fell on it. -/
theorem State.afterDrw_unset_iff (px : Fin 64) (py : Fin 32) :
    (s.disp.get px py = true ∧ (s.afterDrw x y n).disp.get px py = false) ↔
      (s.disp.get px py = true ∧ s.drwBits x y n px py = true) := by
  refine and_congr_right fun hset => ?_
  rw [s.afterDrw_get, hset, Bool.true_xor, Bool.not_eq_false']

theorem State.afterDrw_onlyChanges :
    OnlyChanges (fun p => writes [.v vF] p ∨ ∃ px py, p = .pixel px py) s (s.afterDrw x y n) := by
  refine ((s.setDisp_onlyChanges _).andThen (State.setV_onlyChanges _ vF _)).done.mono ?_
  rintro p (hcontrol | rfl | hpixel)
  · exact .inl (.inl hcontrol)
  · exact .inl (.inr (by simp))
  · exact .inr hpixel

variable {x y}

/-- A second DRW with the same operands draws the same bits, when its coordinates are not the flag that the first one wrote. -/
theorem State.afterDrw_drwBits (hx : x ≠ vF) (hy : y ≠ vF) : (s.afterDrw x y n).drwBits x y n = s.drwBits x y n := by
  have hgx : (s.afterDrw x y n).getV x = s.getV x := by simp [State.afterDrw, hx]
  have hgy : (s.afterDrw x y n).getV y = s.getV y := by simp [State.afterDrw, hy]
  rw [State.drwBits, hgx, hgy]
  rfl

end
end Sys2Proof.Machine

namespace Sys2Proof.Certificates
open Sys2Proof Sys2Proof.Machine

/-- Settles O45: the loop inverts the pixels of the closed form, and the flag is its collision. -/
theorem drwDrawsTheSprite : Obligations.DrwDrawsTheSprite := by
  intro s x y n
  refine ⟨_, exec_drw s x y n, State.done_completedAt _, s.afterDrw_get x y n, ?_, fun hnone => ?_, s.afterDrw_onlyChanges x y n⟩
  · rintro ⟨px, py, hunset⟩
    obtain ⟨hset, hbit⟩ := (s.afterDrw_unset_iff x y n px py).mp hunset
    exact s.afterDrw_vF_of_collision x y n hset hbit
  · refine s.afterDrw_vF_of_no_collision x y n fun ⟨px, py, h⟩ => hnone ⟨px, py, ?_⟩
    exact (s.afterDrw_unset_iff x y n px py).mpr h

/-- Settles O46: the second drawing inverts the pixels that the first did, and from a clear display collides on each of them. -/
theorem drwTwiceErases : Obligations.DrwTwiceErases := by
  intro s x y n hx hy
  have hbits := s.afterDrw_drwBits n hx hy
  refine ⟨_, _, exec_drw s x y n, exec_drw _ x y n, fun px py => ?_, ?_⟩
  · rw [State.afterDrw_get, hbits, s.afterDrw_get, Bool.xor_assoc, Bool.xor_self, Bool.xor_false]
  · rintro hclear ⟨px, py, hbit⟩
    have hset : (s.afterDrw x y n).disp.get px py = true := by
      rw [s.afterDrw_get, hclear, Bool.false_xor]
      exact hbit
    exact State.afterDrw_vF_of_collision _ x y n hset (hbits ▸ hbit)

end Sys2Proof.Certificates
end
